-- ==== Sys2Proof/Word.lean ====
section
/-! DEFINITION. The word types of the Base32 codec core: every value on its ports is a byte or a 32-bit word
(20_memory R51, R54), and a symbol value has 5 bits (00_scope R6, GROUP_WIDTH). -/

namespace Sys2Proof

/-- One input or output byte, or one symbol of the alphabet (R6: BYTE_WIDTH, SYMBOL_WIDTH). -/
abbrev Byte := BitVec 8

/-- A command word or the data of a register read (R6: CMD_WIDTH, RDATA_WIDTH). -/
abbrev Word := BitVec 32

/-- A symbol value, which is also an index into the alphabet (R6: GROUP_WIDTH; R10: symbol value). -/
abbrev SymVal := BitVec 5

/-- A word index of the register-read port (R6: RADDR_WIDTH). -/
abbrev RAddr := BitVec 6

end Sys2Proof
end

