-- ==== Sys2Proof/Syntax.lean ====
section
/-! DEFINITION. The ten commands of B32CORE-CMD v1 (30_encoding R73), one constructor per row of the opcode table. -/

namespace Sys2Proof

/-- A command with its operands (30_encoding R71, R72). The field types carry the operands' widths, so every term is a
command that a word encodes. -/
inductive Instr where
  /-- NOP (43_control R170). -/
  | nop
  /-- CLEAR (43_control R171). -/
  | clear
  /-- CFG_ALPHA: write alphabet entry `idx` (40_configuration R100). -/
  | cfgAlpha (idx : SymVal) (d : Byte)
  /-- CFG_DEFAULT: restore the default alphabet (40_configuration R102). -/
  | cfgDefault
  /-- ENC_START: begin an encode frame, `p` the pad flag (41_encoder R120). -/
  | encStart (p : Bool)
  /-- ENC_BYTE: feed one input byte (41_encoder R121). -/
  | encByte (d : Byte)
  /-- ENC_FINISH: end an encode frame (41_encoder R130). -/
  | encFinish
  /-- DEC_START: begin a decode frame (42_decoder R140). -/
  | decStart
  /-- DEC_CHAR: feed one input character (42_decoder R145). -/
  | decChar (d : Byte)
  /-- DEC_FINISH: end a decode frame (42_decoder R157). -/
  | decFinish
  deriving DecidableEq, Repr

end Sys2Proof
end

