-- ==== Sys2Proof/WellFormed.lean ====
section
/-! DEFINITION. Which assembler lines are well formed (30_encoding R78, R79). `Instr` itself cannot be ill formed: its
field types carry every operand's width (R72). What can be out of range is the number an assembler is given, and R78
has it refused, not truncated. -/

namespace Sys2Proof

/-- One line of assembler with its operands as the plain numbers and byte strings written there: the ten commands of
R78 and the three pseudo-instructions of R79. -/
inductive Source where
  | nop
  | clear
  | cfgAlpha (idx sym : Nat)
  | cfgDefault
  | encStart (p : Nat)
  | encByte (b : Nat)
  | encFinish
  | decStart
  | decChar (c : Nat)
  | decFinish
  /-- `encode "<s>", <p>` -/
  | encode (s : List Byte) (p : Nat)
  /-- `decode "<s>"` -/
  | decode (s : List Byte)
  /-- `cfg.alphabet "<s>"` -/
  | cfgAlphabet (s : List Byte)
  deriving DecidableEq, Repr

/-- Every operand is in the range R78 gives it; the string of `cfg.alphabet` has exactly 32 bytes (R79). -/
def Source.wellFormed : Source → Bool
  | .nop => true
  | .clear => true
  | .cfgAlpha idx sym => decide (idx ≤ 31) && decide (sym ≤ 255)
  | .cfgDefault => true
  | .encStart p => decide (p ≤ 1)
  | .encByte b => decide (b ≤ 255)
  | .encFinish => true
  | .decStart => true
  | .decChar c => decide (c ≤ 255)
  | .decFinish => true
  | .encode _ p => decide (p ≤ 1)
  | .decode _ => true
  | .cfgAlphabet s => decide (s.length = 32)

end Sys2Proof
end

