-- ==== Sys2Proof/Decode.lean ====
section
/-! DEFINITION. Decoding and encoding of command words (30_encoding). -/

namespace Sys2Proof

/-- Operand D = w[7:0] (R72). -/
def fieldD (w : Word) : Byte := w.extractLsb' 0 8

/-- Operand IDX = w[12:8] (R72). -/
def fieldIdx (w : Word) : SymVal := w.extractLsb' 8 5

/-- Operand P = w[16] (R72). -/
def fieldP (w : Word) : Bool := w.getLsbD 16

/-- The operation field OP = w[31:28] (R70). -/
def fieldOp (w : Word) : BitVec 4 := w.extractLsb' 28 4

/-- One row of the opcode map: the two words of R74, and the command with its operands taken from the word. -/
structure OpcodeRow where
  matchWord : Word
  maskWord : Word
  build : Word → Instr

/-- R74: a word is this row's command iff `(w & MASK) == MATCH`. -/
def OpcodeRow.hits (r : OpcodeRow) (w : Word) : Bool := w &&& r.maskWord == r.matchWord

/-- The opcode map (R74, opcode_table.json). -/
def opcodeTable : List OpcodeRow :=
  [ ⟨0x00000000#32, 0xFFFFFFFF#32, fun _ => .nop⟩,
    ⟨0x10000000#32, 0xFFFFFFFF#32, fun _ => .clear⟩,
    ⟨0x20000000#32, 0xFFFFE000#32, fun w => .cfgAlpha (fieldIdx w) (fieldD w)⟩,
    ⟨0x30000000#32, 0xFFFFFFFF#32, fun _ => .cfgDefault⟩,
    ⟨0x40000000#32, 0xFFFEFFFF#32, fun w => .encStart (fieldP w)⟩,
    ⟨0x50000000#32, 0xFFFFFF00#32, fun w => .encByte (fieldD w)⟩,
    ⟨0x60000000#32, 0xFFFFFFFF#32, fun _ => .encFinish⟩,
    ⟨0x80000000#32, 0xFFFFFFFF#32, fun _ => .decStart⟩,
    ⟨0x90000000#32, 0xFFFFFF00#32, fun w => .decChar (fieldD w)⟩,
    ⟨0xA0000000#32, 0xFFFFFFFF#32, fun _ => .decFinish⟩ ]

/-- Why a word is no command (R75). -/
inductive Reject where
  /-- OP is 0x7 or 0xB..0xF. -/
  | unallocatedOp (op : BitVec 4)
  /-- OP names a command, but a must-be-zero bit of R71 is 1. -/
  | reservedBitSet (op : BitVec 4)
  deriving DecidableEq, Repr

/-- The OP values that name a command (R73). -/
def opAllocated (op : BitVec 4) : Bool := decide (op ≤ 0xA#4) && op != 0x7#4

/-- The decoder, total on words (R76): a command with its operands, or the reason why the word is illegal (R75). -/
def decodeWord (w : Word) : Except Reject Instr :=
  match opcodeTable.find? (·.hits w) with
  | some r => .ok (r.build w)
  | none => .error (if opAllocated (fieldOp w) then .reservedBitSet (fieldOp w) else .unallocatedOp (fieldOp w))

/-- The decoder as R76 words it: none means illegal. -/
def decode (w : Word) : Option Instr := (decodeWord w).toOption

/-- The instruction the decoder reads from the table's bits: the table numbers the 32 bits of the one command word as
R70 does, so the word is the number itself. -/
def decodeTableWord (nbits w : Nat) : Option Instr := decode (BitVec.ofNat 32 (w % 2 ^ nbits))

/-- The format CMD32 (R70): every field in its place, every reserved bit zero. -/
def cmd32 (op : BitVec 4) (p : Bool) (idx : SymVal) (d : Byte) : Word :=
  op ++ 0#11 ++ BitVec.ofBool p ++ 0#3 ++ idx ++ d

/-- The word of a command (R71, R73): a field it does not use is zero. -/
def encode : Instr → Word
  | .nop => cmd32 0x0#4 false 0#5 0#8
  | .clear => cmd32 0x1#4 false 0#5 0#8
  | .cfgAlpha idx d => cmd32 0x2#4 false idx d
  | .cfgDefault => cmd32 0x3#4 false 0#5 0#8
  | .encStart p => cmd32 0x4#4 p 0#5 0#8
  | .encByte d => cmd32 0x5#4 false 0#5 d
  | .encFinish => cmd32 0x6#4 false 0#5 0#8
  | .decStart => cmd32 0x8#4 false 0#5 0#8
  | .decChar d => cmd32 0x9#4 false 0#5 d
  | .decFinish => cmd32 0xA#4 false 0#5 0#8

end Sys2Proof
end

