-- ==== Sys2Proof/Config.lean ====
section
/-! DEFINITION. What an implementation fixes: the constants of 00_scope R6 and its three OPEN parameters, which have no
body, so that whatever is proved holds for every value of them. -/

namespace Sys2Proof

/-- The alphabet register file: 32 entries of 8 bits (10_state R25; R6: ALPHABET_SIZE, SYMBOL_WIDTH). -/
abbrev Alphabet := Vector Byte 32

namespace Config

/-- MASK, the hardwired bit-window mask (10_state R26, 40_configuration R104). -/
def mask : BitVec 5 := 0x1F#5

/-- PAD_CHAR, `=` (R6). -/
def padChar : Byte := 0x3D#8

/-- TRIM_SET: `=`, space, tab, line feed, carriage return, NUL, vertical tab (R6, 42_decoder R144). -/
def trimSet : List Byte := [0x3D#8, 0x20#8, 0x09#8, 0x0A#8, 0x0D#8, 0x00#8, 0x0B#8]

/-- DEFAULT_ALPHABET, "ABCDEFGHIJKLMNOPQRSTUVWXYZ234567" (40_configuration R102; 90_conflicts C1). -/
def defaultAlphabet : Alphabet :=
  #v[0x41#8, 0x42#8, 0x43#8, 0x44#8, 0x45#8, 0x46#8, 0x47#8, 0x48#8,
     0x49#8, 0x4A#8, 0x4B#8, 0x4C#8, 0x4D#8, 0x4E#8, 0x4F#8, 0x50#8,
     0x51#8, 0x52#8, 0x53#8, 0x54#8, 0x55#8, 0x56#8, 0x57#8, 0x58#8,
     0x59#8, 0x5A#8, 0x32#8, 0x33#8, 0x34#8, 0x35#8, 0x36#8, 0x37#8]

/-- How much deeper than the least allowed depth of 8 the output buffer is: OPEN (R6; log entry 3). -/
opaque outDepthExtra : Nat

/-- OUT_DEPTH, the output items the block can hold before the sink takes them: OPEN, at least 8
(R6, 70_reset_and_hazards R241). -/
def outDepth : Nat := outDepthExtra + 8

/-- N_INSTANCES, the number of independent instances on a platform: OPEN (R6, 60_exceptions R220). -/
opaque nInstances : Nat

/-- BASE_ADDR, where a platform places the register-read space of its instance `k`, in words: OPEN
(R6, 20_memory R56). -/
opaque baseAddr : Nat → Nat

end Config

end Sys2Proof
end

