-- ==== Sys2Proof/Machine/Operands.lean ====
section
/-! DEFINITION. The values the commands compute with: case folding, the trim set, the two symbol mappers, the bit windows
of the encoder and the decoder, and the pad count. No state is read or written here. -/

namespace Sys2Proof.Machine

/-- lc: ASCII lower-casing (00_scope R9; 92 D4). -/
def lc (c : Byte) : Byte := if 0x41#8 ≤ c ∧ c ≤ 0x5A#8 then c + 0x20#8 else c

/-- ASCII upper-casing, the `uppercase` of 44_frame_reference R188 on one byte. -/
def uc (c : Byte) : Byte := if 0x61#8 ≤ c ∧ c ≤ 0x7A#8 then c - 0x20#8 else c

/-- inTrim: `c` is in TRIM_SET (00_scope R9). -/
def inTrim (c : Byte) : Bool := Config.trimSet.contains c

/-- Every symbol value, 0 first. -/
def symVals : List SymVal := (List.range 32).map (BitVec.ofNat 5)

/-- ALPHA[i]: the encoder's symbol mapper (41_encoder R122). -/
def entry (A : Alphabet) (i : SymVal) : Byte := A[i.toNat]'(i.isLt)

/-- ALPHA[i] <- c (40_configuration R100). -/
def setEntry (A : Alphabet) (i : SymVal) (c : Byte) : Alphabet := A.set i.toNat c i.isLt

/-- Entry `i` accepts the character `c`: it equals the entry or its lower-case image (42_decoder R141, R142). -/
def accepts (A : Alphabet) (c : Byte) (i : SymVal) : Bool := entry A i == c || lc (entry A i) == c

/-- map(c): the least index whose entry accepts `c`, or none (42_decoder R141). -/
def symbolMap (A : Alphabet) (c : Byte) : Option SymVal := symVals.find? (accepts A c)

/-- The bit-window extractor (41_encoder R123): the 5-bit group above the low `rs` bits. -/
def window (acc : BitVec 12) (rs : Nat) : SymVal :=
  ((acc &&& (Config.mask.setWidth 12 <<< rs)) >>> rs).setWidth 5

/-- The low `n` bits of a 12-bit buffer: what is left when the bits above are consumed (41_encoder R124, 42_decoder R147). -/
def lowBits (v : BitVec 12) (n : Nat) : BitVec 12 := v &&& ((1#12 <<< n) - 1#12)

/-- The final partial group of an encode frame, zero-filled on the right (41_encoder R131). -/
def finalGroup (acc : BitVec 12) (rs : Nat) : SymVal :=
  ((acc <<< (5 - rs)) &&& Config.mask.setWidth 12).setWidth 5

/-- The `while` loop of ENC_BYTE (41_encoder R121): as long as more than 4 bits are buffered, take the top 5 as a symbol
and drop them. It answers the symbols in order, the bits left and their number. -/
def drain (A : Alphabet) : Nat → BitVec 12 → List Byte × BitVec 12 × Nat
  | rs + 5, acc =>
    let rest := drain A rs (lowBits acc rs)
    (entry A (window acc rs) :: rest.1, rest.2)
  | rs, acc => ([], acc, rs)

/-- The byte the decoder takes when `bs` bits stay below it: buf[bs+7 : bs] (42_decoder R148). -/
def byteWindow (buf : BitVec 12) (bs : Nat) : Byte := ((buf &&& (0xFF#12 <<< bs)) >>> bs).setWidth 8

/-- ceil(a / b) of 00_scope R7. -/
def ceilDiv (a b : Nat) : Nat := (a + (b - 1)) / b

/-- padCount(k) = (8 - ceil(k*8/5)) mod 8, the remainder non-negative (00_scope R7, R9; 41_encoder R132). -/
def padCount (k : Nat) : Nat := (((8 : Int) - ceilDiv (k * 8) 5) % 8).toNat

end Sys2Proof.Machine
end

