-- ==== Sys2Proof/Machine/State.lean ====
section
/-! DEFINITION. The state of one codec instance: exactly the elements of 10_state R23, and beside them the outside ends
of its three ports (log entry 1). MASK is the constant `Config.mask` (R26), CFG_VALID is not stored (R38). -/

namespace Sys2Proof.Machine

/-- MODE (10_state R24). -/
inductive Mode where
  /-- No frame is active (0). -/
  | idle
  /-- An encode frame is active (1). -/
  | enc
  /-- A decode frame is active and has raised no error (2). -/
  | dec
  /-- A decode frame is active and has raised InvalidSymbol (3). -/
  | decErr
  deriving DecidableEq, Repr

/-- ERR_CODE (10_state R35). The codes 5 to 7 are never written (60_exceptions R200; 93 I7), so they are no value here. -/
inductive ErrCode where
  /-- No error captured (0). -/
  | none
  /-- INVALID_SYMBOL (1). -/
  | invalidSymbol
  /-- CONFIG_MISMATCH (2). -/
  | configMismatch
  /-- SEQUENCE (3). -/
  | sequence
  /-- ILLEGAL_CMD (4). -/
  | illegalCmd
  deriving DecidableEq, Repr

/-- The status of an END item (10_state R37). Status 3 is never produced (93 I7), so it is no value here. -/
inductive EndStatus where
  /-- OK (0): the frame's DATA items are its complete result. -/
  | ok
  /-- INVALID (1): the decode frame raised InvalidSymbol, its DATA items are void. -/
  | invalid
  /-- ABORTED (2): a CLEAR closed the frame, its DATA items are void. -/
  | aborted
  deriving DecidableEq, Repr

/-- An item of the output stream (10_state R37). -/
inductive OutItem where
  /-- DATA(b): an output symbol or an output byte. -/
  | data (b : Byte)
  /-- END(s): closes a frame. -/
  | endFrame (s : EndStatus)
  deriving DecidableEq, Repr

/-- What the sink sees on its port, oldest first (70_reset_and_hazards R231, R249). -/
inductive SinkEvent where
  /-- The sink took the next item. -/
  | took (item : OutItem)
  /-- The sink saw the block being reset, with this many frames open, the END item of each not taken. -/
  | sawReset (openFrames : Nat)
  deriving DecidableEq, Repr

/-- One interaction at the block's ports (70_reset_and_hazards R249), or the block's turn to perform the command at the
head of the command port. -/
inductive HostAction where
  /-- The block's turn. -/
  | turn
  /-- The host puts a word on the command port. -/
  | send (w : Word)
  /-- The host reads a register. -/
  | read (a : RAddr)
  /-- The sink is ready for the next item. -/
  | take
  /-- The host asserts reset. -/
  | reset
  deriving DecidableEq, Repr

/-- No fault: every error of this block is a recorded event after which it goes on (60_exceptions R213, R214), so there
is no reason for which the machine stops. -/
inductive Fault where
  deriving DecidableEq, Repr

/-- Why an instruction has no meaning. -/
inductive Refusal where
  /-- Raised by an arm of `exec` whose instruction is not modelled yet. No arm raises it: every command has its
  meaning. Safe: the machine stops where the hardware goes on. -/
  | notModelled (mnemonic : String)
  deriving DecidableEq, Repr

/-- The state (10_state R23). The comment of a field names the spec's element and the rule that gives its use. -/
structure State where
  /-- MODE (R24). -/
  mode : Mode
  /-- ALPHA[0..31] (R25). -/
  alpha : Alphabet
  /-- PAD (R27). -/
  pad : Bool
  /-- ENC_ACC (R28). -/
  encAcc : BitVec 12
  /-- ENC_RS (R29). -/
  encRs : BitVec 4
  /-- ENC_CNT5 (R30). -/
  encCnt5 : BitVec 3
  /-- DEC_BUF (R31). -/
  decBuf : BitVec 12
  /-- DEC_BS (R32). -/
  decBs : BitVec 4
  /-- DEC_POS (R33). -/
  decPos : BitVec 32
  /-- DEC_HELD (R34). -/
  decHeld : Bool
  /-- DEC_HCHAR (R34). -/
  decHchar : Byte
  /-- DEC_HPOS (R34). -/
  decHpos : BitVec 32
  /-- ERR_CODE (R35). -/
  errCode : ErrCode
  /-- ERR_OVF (R35). -/
  errOvf : Bool
  /-- ERR_CHAR (R35). -/
  errChar : Byte
  /-- ERR_POS (R35). -/
  errPos : BitVec 32
  /-- ERR_CMD (R35). -/
  errCmd : Word
  /-- OUT: every item produced since the last reset, oldest first (R36). -/
  out : List OutItem
  /-- How many items of OUT the sink has taken (R36: the sink's state). -/
  taken : Nat
  /-- What the sink has seen so far, resets included (R231). -/
  sink : List SinkEvent
  /-- Command words on the command port that are not accepted yet, oldest first (20_memory R52). -/
  cmdPort : List Word
  /-- The coming actions at the ports, next one first (R249); when it is empty, it is always the block's turn. -/
  inbox : List HostAction
  /-- What the register-read port has returned, oldest first (70_reset_and_hazards R248). -/
  reads : List (RAddr × Word)
  deriving DecidableEq, Repr

/-- The state right after reset (70_reset_and_hazards R230), nothing yet at the ports (log entry 1). -/
def State.reset : State where
  mode := .idle
  alpha := Config.defaultAlphabet
  pad := false
  encAcc := 0#12
  encRs := 0#4
  encCnt5 := 0#3
  decBuf := 0#12
  decBs := 0#4
  decPos := 0#32
  decHeld := false
  decHchar := 0#8
  decHpos := 0#32
  errCode := .none
  errOvf := false
  errChar := 0#8
  errPos := 0#32
  errCmd := 0#32
  out := []
  taken := 0
  sink := []
  cmdPort := []
  inbox := []
  reads := []

end Sys2Proof.Machine
end

