-- ==== Sys2Proof/Machine/Flags.lean ====
section
/-! DEFINITION. CFG_VALID, the STATUS word and the register-read map (10_state R38 to R46). There are no condition codes
(R47): these fields are the block's only flags. -/

namespace Sys2Proof.Machine

/-- valid(A): no two entries with one lower-case image, and no entry in the trim set (40_configuration R106). -/
def cfgValid (A : Alphabet) : Bool :=
  symVals.all fun i => (symVals.all fun j => i == j || lc (entry A i) != lc (entry A j)) && !inTrim (entry A i)

/-- The two bits of MODE (10_state R24). -/
def modeBits : Mode → BitVec 2
  | .idle => 0#2
  | .enc => 1#2
  | .dec => 2#2
  | .decErr => 3#2

/-- The three bits of ERR_CODE (10_state R35). -/
def errCodeBits : ErrCode → BitVec 3
  | .none => 0#3
  | .invalidSymbol => 1#3
  | .configMismatch => 2#3
  | .sequence => 3#3
  | .illegalCmd => 4#3

/-- The two bits of an END item's status (10_state R37). -/
def endStatusBits : EndStatus → BitVec 2
  | .ok => 0#2
  | .invalid => 1#2
  | .aborted => 2#2

/-- STATUS = {20'b0, ERR_OVF, ERR_CODE, 4'b0, PAD, CFG_VALID, MODE} (10_state R40). -/
def statusWord (s : State) : Word :=
  0#20 ++ BitVec.ofBool s.errOvf ++ errCodeBits s.errCode ++ 0#4 ++ BitVec.ofBool s.pad
    ++ BitVec.ofBool (cfgValid s.alpha) ++ modeBits s.mode

/-- The register-read map (10_state R39): RADDR 32 + i is ALPHA_R[i], 5 to 31 are reserved and read 0 (R46). -/
def readReg (s : State) (a : RAddr) : Word :=
  if 32 ≤ a.toNat then (entry s.alpha (a.setWidth 5)).setWidth 32
  else if a = 0#6 then statusWord s
  else if a = 1#6 then s.errChar.setWidth 32
  else if a = 2#6 then s.errPos
  else if a = 3#6 then s.errCmd
  else if a = 4#6 then Config.mask.setWidth 32
  else 0#32

end Sys2Proof.Machine
end

