-- ==== Sys2Proof/Machine/Ops.lean ====
section
/-! DEFINITION. The named operations over the state. Raising an error is ONE shared operation, `record` (60_exceptions
R205): there is no trap entry, no saved pc and no return from an error (R214, R215). -/

namespace Sys2Proof.Machine

/-- MODE <- m. -/
def setMode (m : Mode) (s : State) : State := { s with mode := m }

/-- PAD <- p. -/
def setPad (p : Bool) (s : State) : State := { s with pad := p }

/-- ALPHA <- A. -/
def setAlpha (A : Alphabet) (s : State) : State := { s with alpha := A }

/-- ENC_ACC <- acc; ENC_RS <- rs; ENC_CNT5 <- cnt. -/
def setEnc (acc : BitVec 12) (rs : BitVec 4) (cnt : BitVec 3) (s : State) : State :=
  { s with encAcc := acc, encRs := rs, encCnt5 := cnt }

/-- DEC_BUF <- buf; DEC_BS <- bs. -/
def setDecBits (buf : BitVec 12) (bs : BitVec 4) (s : State) : State := { s with decBuf := buf, decBs := bs }

/-- DEC_POS <- p. -/
def setDecPos (p : BitVec 32) (s : State) : State := { s with decPos := p }

/-- DEC_HELD <- h; DEC_HCHAR <- c; DEC_HPOS <- p. -/
def setHeld (h : Bool) (c : Byte) (p : BitVec 32) (s : State) : State :=
  { s with decHeld := h, decHchar := c, decHpos := p }

/-- Emit: append items to OUT, in order (00_scope R8, 10_state R36). -/
def emit (items : List OutItem) (s : State) : State := { s with out := s.out ++ items }

/-- Record(code, ch, pos, cmd): the first error is kept, a later one only sets ERR_OVF (60_exceptions R205). -/
def record (code : ErrCode) (ch : Byte) (pos : BitVec 32) (cmd : Word) (s : State) : State :=
  if s.errCode = .none then { s with errCode := code, errChar := ch, errPos := pos, errCmd := cmd }
  else { s with errOvf := true }

/-- Clear the error capture (43_control R171). -/
def clearCapture (s : State) : State :=
  { s with errCode := .none, errOvf := false, errChar := 0#8, errPos := 0#32, errCmd := 0#32 }

/-- ENC_ACC <- 0; ENC_RS <- 0; ENC_CNT5 <- 0 (41_encoder R120, R130; 43_control R171). -/
def clearEnc (s : State) : State := setEnc 0#12 0#4 0#3 s

/-- DEC_BUF, DEC_BS, DEC_POS, DEC_HELD, DEC_HCHAR, DEC_HPOS <- 0 (42_decoder R140, R157; 43_control R171). -/
def clearDec (s : State) : State := setHeld false 0#8 0#32 (setDecPos 0#32 (setDecBits 0#12 0#4 s))

/-- raise SequenceError() by the command word `cmd` (60_exceptions R204). -/
def raiseSequence (cmd : Word) (s : State) : State := record .sequence 0#8 0#32 cmd s

/-- raise ConfigurationMismatch() by the command word `cmd` (60_exceptions R202). -/
def raiseConfigMismatch (cmd : Word) (s : State) : State := record .configMismatch 0#8 0#32 cmd s

/-- raise IllegalCommand() by the word `cmd` (60_exceptions R213). -/
def raiseIllegal (cmd : Word) (s : State) : State := record .illegalCmd 0#8 0#32 cmd s

/-- raise InvalidSymbol(ch, pos) by the command word `cmd`, and MODE <- DEC_ERR (60_exceptions R201). -/
def raiseInvalidSymbol (ch : Byte) (pos : BitVec 32) (cmd : Word) (s : State) : State :=
  setMode .decErr (record .invalidSymbol ch pos cmd s)

end Sys2Proof.Machine
end

