-- ==== Sys2Proof/Machine/Configuration.lean ====
section
/-! DEFINITION. The configuration commands (40_configuration): legal in mode IDLE only. -/

namespace Sys2Proof.Machine

/-- CFG_ALPHA (R100): any symbol is accepted, validity is checked when a frame starts (R108). -/
def execCfgAlpha (idx : SymVal) (d : Byte) (s : State) : Host.Outcome State Fault Refusal :=
  if s.mode = .idle then .next (setAlpha (setEntry s.alpha idx d) s)
  else .next (raiseSequence (encode (.cfgAlpha idx d)) s)

/-- CFG_DEFAULT (R102). -/
def execCfgDefault (s : State) : Host.Outcome State Fault Refusal :=
  if s.mode = .idle then .next (setAlpha Config.defaultAlphabet s)
  else .next (raiseSequence (encode .cfgDefault) s)

end Sys2Proof.Machine
end

