-- ==== Sys2Proof/Machine/Control.lean ====
section
/-! DEFINITION. The control commands (43_control), and the performance of an illegal word (60_exceptions R213). -/

namespace Sys2Proof.Machine

/-- NOP (R170). -/
def execNop (s : State) : Host.Outcome State Fault Refusal := .next s

/-- CLEAR (R171): legal in every mode; an open frame is closed by END(2), ALPHA is kept. -/
def execClear (s : State) : Host.Outcome State Fault Refusal :=
  let closed := if s.mode = .idle then s else emit [.endFrame .aborted] s
  .next (clearCapture (clearDec (clearEnc (setPad false (setMode .idle closed)))))

/-- Performing a word that is no command (R75, R213): recorded, no other effect. -/
def execIllegal (w : Word) (s : State) : Host.Outcome State Fault Refusal := .next (raiseIllegal w s)

end Sys2Proof.Machine
end

