-- ==== Sys2Proof/Machine/Decoder.lean ====
section
/-! DEFINITION. The decoder commands (42_decoder). -/

namespace Sys2Proof.Machine

/-- DEC_START (R140): a frame must not be active, then the alphabet must be valid. -/
def execDecStart (s : State) : Host.Outcome State Fault Refusal :=
  if s.mode ≠ .idle then .next (raiseSequence (encode .decStart) s)
  else if cfgValid s.alpha = false then .next (raiseConfigMismatch (encode .decStart) s)
  else .next (clearDec (setMode .dec s))

/-- Hold a trim-set character (R150): only the first of a run is kept. -/
def holdChar (d : Byte) (s : State) : State :=
  setDecPos (s.decPos + 1#32) (if s.decHeld then s else setHeld true d s.decPos s)

/-- The bit-reassembler and the byte-output register on one symbol value (R147, R148). -/
def acceptSymbol (v : SymVal) (s : State) : State :=
  let buf := (s.decBuf <<< 5) ||| v.setWidth 12
  let bs := s.decBs.toNat + 5
  setDecPos (s.decPos + 1#32) <|
    if bs > 7 then
      setDecBits (lowBits buf (bs - 8)) (BitVec.ofNat 4 (bs - 8)) (emit [.data (byteWindow buf (bs - 8))] s)
    else setDecBits buf (BitVec.ofNat 4 bs) s

/-- DEC_CHAR in mode DEC (R145, R150 to R152): hold; or a held run was not trailing; or map the character. -/
def feedChar (d : Byte) (s : State) : State :=
  if inTrim d then holdChar d s
  else if s.decHeld then raiseInvalidSymbol s.decHchar s.decHpos (encode (.decChar d)) s
  else
    match symbolMap s.alpha d with
    | none => raiseInvalidSymbol d s.decPos (encode (.decChar d)) s
    | some v => acceptSymbol v s

/-- DEC_CHAR (R145): ignored in mode DEC_ERR (R155). -/
def execDecChar (d : Byte) (s : State) : Host.Outcome State Fault Refusal :=
  match s.mode with
  | .dec => .next (feedChar d s)
  | .decErr => .next s
  | .idle => .next (raiseSequence (encode (.decChar d)) s)
  | .enc => .next (raiseSequence (encode (.decChar d)) s)

/-- Close a decode frame with END(st): held characters and leftover bits are dropped (R157 to R159). -/
def closeDec (st : EndStatus) (s : State) : State := clearDec (setMode .idle (emit [.endFrame st] s))

/-- DEC_FINISH (R157). -/
def execDecFinish (s : State) : Host.Outcome State Fault Refusal :=
  match s.mode with
  | .dec => .next (closeDec .ok s)
  | .decErr => .next (closeDec .invalid s)
  | .idle => .next (raiseSequence (encode .decFinish) s)
  | .enc => .next (raiseSequence (encode .decFinish) s)

end Sys2Proof.Machine
end

