-- ==== Sys2Proof/Machine/Encoder.lean ====
section
/-! DEFINITION. The encoder commands (41_encoder). -/

namespace Sys2Proof.Machine

/-- ENC_START (R120): a frame must not be active, then the alphabet must be valid. -/
def execEncStart (p : Bool) (s : State) : Host.Outcome State Fault Refusal :=
  if s.mode ≠ .idle then .next (raiseSequence (encode (.encStart p)) s)
  else if cfgValid s.alpha = false then .next (raiseConfigMismatch (encode (.encStart p)) s)
  else .next (clearEnc (setPad p (setMode .enc s)))

/-- ENC_BYTE (R121): 8 bits in, then the `while` loop of `drain`, every symbol emitted in order. -/
def execEncByte (d : Byte) (s : State) : Host.Outcome State Fault Refusal :=
  if s.mode ≠ .enc then .next (raiseSequence (encode (.encByte d)) s)
  else
    let r := drain s.alpha (s.encRs.toNat + 8) ((s.encAcc <<< 8) ||| d.setWidth 12)
    .next (setEnc r.2.1 (BitVec.ofNat 4 r.2.2) (BitVec.ofNat 3 ((s.encCnt5.toNat + 1) % 5)) (emit (r.1.map .data) s))

/-- The symbol of the leftover bits, if there are any (R130, R131). -/
def finalSymbol (s : State) : List OutItem :=
  if s.encRs.toNat > 0 then [.data (entry s.alpha (finalGroup s.encAcc s.encRs.toNat))] else []

/-- The pad characters, if the frame pads (R130, R132). -/
def padding (s : State) : List OutItem :=
  if s.pad = true then List.replicate (padCount s.encCnt5.toNat) (.data Config.padChar) else []

/-- ENC_FINISH (R130): the partial group, the padding, END(0). -/
def execEncFinish (s : State) : Host.Outcome State Fault Refusal :=
  if s.mode ≠ .enc then .next (raiseSequence (encode .encFinish) s)
  else .next (clearEnc (setPad false (setMode .idle (emit (finalSymbol s ++ padding s ++ [.endFrame .ok]) s))))

end Sys2Proof.Machine
end

