-- ==== Sys2Proof/Machine/Dispatch.lean ====
section
/-! DEFINITION. One arm per command: performing a well-formed command (20_memory R52). -/

namespace Sys2Proof.Machine

def exec (i : Instr) (s : State) : Host.Outcome State Fault Refusal :=
  match i with
  -- 43_control
  | .nop => Sys2Proof.Machine.execNop s
  | .clear => Sys2Proof.Machine.execClear s
  -- 40_configuration
  | .cfgAlpha idx d => Sys2Proof.Machine.execCfgAlpha idx d s
  | .cfgDefault => Sys2Proof.Machine.execCfgDefault s
  -- 41_encoder
  | .encStart p => Sys2Proof.Machine.execEncStart p s
  | .encByte d => Sys2Proof.Machine.execEncByte d s
  | .encFinish => Sys2Proof.Machine.execEncFinish s
  -- 42_decoder
  | .decStart => Sys2Proof.Machine.execDecStart s
  | .decChar d => Sys2Proof.Machine.execDecChar d s
  | .decFinish => Sys2Proof.Machine.execDecFinish s

end Sys2Proof.Machine
end

