-- ==== Sys2Proof/Machine/Ports.lean ====
section
/-! DEFINITION. The block's ports: the command port with its lossless hold, the register-read port, the output port and
the reset input (20_memory R52 to R59, 70_reset_and_hazards R230 to R232, R241, R249). -/

namespace Sys2Proof.Machine

/-- Perform a word: the command it decodes to, or the record of an illegal word (30_encoding R75, R76; the first check of
60_exceptions R211). -/
def performWord (w : Word) (s : State) : Host.Outcome State Fault Refusal :=
  match decode w with
  | some i => exec i s
  | none => execIllegal w s

/-- How many items of OUT the sink has not taken: what the output buffer holds (20_memory R59). -/
def untaken (s : State) : Nat := s.out.length - s.taken

/-- The items a command emitted fit in the output buffer (20_memory R59): it emitted none, or the buffer then holds at
most OUT_DEPTH items. -/
def fits (before after : State) : Bool :=
  decide (after.out.length = before.out.length) || decide (untaken after ≤ Config.outDepth)

/-- The host puts a word on the command port, behind those that wait (20_memory R52). -/
def sendWord (w : Word) (s : State) : State := { s with cmdPort := s.cmdPort ++ [w] }

/-- The port has accepted its first word. -/
def acceptWord (s : State) : State := { s with cmdPort := s.cmdPort.tail }

/-- Perform the accepted word of `s`; if its items do not fit, hold it: the word stays on the port and nothing has
happened (20_memory R59, 70_reset_and_hazards R241). -/
def performOrHold (w : Word) (s : State) : Host.Outcome State Fault Refusal :=
  match performWord w (acceptWord s) with
  | .next t => if fits s t then .next t else .next s
  | .fault r => .fault r
  | .refused r => .refused r

/-- The block's turn: the word at the head of the command port, or none, and then the block holds its state
(60_exceptions R223). -/
def takeTurn (s : State) : Host.Outcome State Fault Refusal :=
  match s.cmdPort with
  | [] => .next s
  | w :: _ => performOrHold w s

/-- A register read returns the state between two commands, and has no side effect on the block (20_memory R54, R55). -/
def readPort (a : RAddr) (s : State) : State := { s with reads := s.reads ++ [(a, readReg s a)] }

/-- The sink takes the next item, if there is one (10_state R36, 20_memory R58). -/
def takeItem (s : State) : State :=
  match s.out[s.taken]? with
  | none => s
  | some item => { s with taken := s.taken + 1, sink := s.sink ++ [.took item] }

/-- An END item. -/
def isEnd : OutItem → Bool
  | .data _ => false
  | .endFrame _ => true

/-- The frames that are open for the sink, which has taken no END item of them (70_reset_and_hazards R231): those whose END
is still in the output buffer, and the active one (log entry 8). -/
def openFrames (s : State) : Nat := (s.out.drop s.taken).countP isEnd + if s.mode = .idle then 0 else 1

/-- Reset (70_reset_and_hazards R230 to R232): every element of the block, OUT emptied without an END, the words not yet
accepted dropped. What the sink and the host hold stays, and the sink sees the reset and how many frames it leaves open. -/
def assertReset (s : State) : State :=
  { State.reset with sink := s.sink ++ [.sawReset (openFrames s)], inbox := s.inbox, reads := s.reads }

/-- One action at the ports. -/
def act (a : HostAction) (s : State) : Host.Outcome State Fault Refusal :=
  match a with
  | .turn => takeTurn s
  | .send w => .next (sendWord w s)
  | .read r => .next (readPort r s)
  | .take => .next (takeItem s)
  | .reset => .next (assertReset s)

/-- The next action of the inbox leaves it and is done; an empty inbox gives the block its turn (log entry 1). -/
def nextAction (s : State) : Host.Outcome State Fault Refusal :=
  match s.inbox with
  | [] => act .turn s
  | a :: rest => act a { s with inbox := rest }

/-- The sink has taken every item of OUT. -/
def drainOut (s : State) : State :=
  { s with taken := s.out.length, sink := s.sink ++ (s.out.drop s.taken).map .took }

/-- `s` with the word `w` first on the command port, the block's turn next, and the output buffer drained, so that the very
next step performs `w` (log entry 2). -/
def presentWord (w : Word) (s : State) : State :=
  { drainOut s with cmdPort := w :: s.cmdPort, inbox := .turn :: s.inbox }

end Sys2Proof.Machine
end

