-- ==== Sys2Proof/Machine/Platform.lean ====
section
/-! DEFINITION. A platform of independent instances (60_exceptions R220), with the place of each one's register-read space
(20_memory R56). -/

namespace Sys2Proof.Machine

/-- The instances of a platform: each has its own copy of every state element and its own ports (R220). -/
structure Platform where
  instances : List State
  deriving DecidableEq, Repr

/-- N_INSTANCES instances right after reset. -/
def platformReset : Platform := ⟨List.replicate Config.nInstances State.reset⟩

/-- Instance `k` makes one step; where there is no instance `k`, or it does not go on, nothing changes. -/
def stepInstance (k : Nat) (p : Platform) : Platform :=
  match p.instances[k]?.map step with
  | some (.next t) => ⟨p.instances.set k t⟩
  | _ => p

/-- What a platform reads at word address `addr` in the register-read space of instance `k`, which begins at BASE_ADDR
(R56; log entry 6). -/
def readInstance (k : Nat) (addr : Nat) (p : Platform) : Option Word :=
  if Config.baseAddr k ≤ addr ∧ addr < Config.baseAddr k + 64 then
    p.instances[k]?.map (readReg · (BitVec.ofNat 6 (addr - Config.baseAddr k)))
  else none

end Sys2Proof.Machine
end

