-- ==== Sys2Proof/Machine/Assembler.lean ====
section
/-! DEFINITION. The assembler of 30_encoding R78 and R79: the text of a line, and the words it stands for. An operand out
of range, or a line of another form, is refused. -/

namespace Sys2Proof.Machine

/-- The frame of commands of the source call `encode(s, padRight = p)` (R79). -/
def encodeFrame (s : List Byte) (p : Bool) : List Instr := .encStart p :: (s.map .encByte ++ [.encFinish])

/-- The frame of commands of the source call `decode(s)` (R79). -/
def decodeFrame (s : List Byte) : List Instr := .decStart :: (s.map .decChar ++ [.decFinish])

/-- The 32 commands of `cfg.alphabet "<s>"` (R79). -/
def alphabetCommands (s : List Byte) : List Instr := List.zipWith .cfgAlpha ((List.range 32).map (BitVec.ofNat 5)) s

/-- The commands of a line whose operands are in range. -/
def expandInRange : Source → List Instr
  | .nop => [.nop]
  | .clear => [.clear]
  | .cfgAlpha idx sym => [.cfgAlpha (BitVec.ofNat 5 idx) (BitVec.ofNat 8 sym)]
  | .cfgDefault => [.cfgDefault]
  | .encStart p => [.encStart (decide (p = 1))]
  | .encByte b => [.encByte (BitVec.ofNat 8 b)]
  | .encFinish => [.encFinish]
  | .decStart => [.decStart]
  | .decChar c => [.decChar (BitVec.ofNat 8 c)]
  | .decFinish => [.decFinish]
  | .encode s p => encodeFrame s (decide (p = 1))
  | .decode s => decodeFrame s
  | .cfgAlphabet s => alphabetCommands s

/-- The commands of a line, refused when an operand is out of range (R78, R79). -/
def expand (src : Source) : Option (List Instr) := if src.wellFormed then some (expandInRange src) else none

/-- The words of a line. -/
def assemble (src : Source) : Option (List Word) := (expand src).map (·.map encode)

/-- One operand as it is written: a number, a character literal, or a string literal. -/
inductive Operand where
  | num (n : Nat)
  | chr (b : Byte)
  | str (s : List Byte)
  deriving DecidableEq, Repr

/-- The value of a digit, if it is one of the base. -/
def digit (base : Nat) (c : Char) : Option Nat :=
  let v := if '0' ≤ c ∧ c ≤ '9' then c.toNat - 0x30
    else if 'a' ≤ c ∧ c ≤ 'f' then c.toNat - 0x61 + 10
    else if 'A' ≤ c ∧ c ≤ 'F' then c.toNat - 0x41 + 10
    else base
  if v < base then some v else none

/-- The number the digits write after the value `n` read so far. -/
def digits (base : Nat) : Nat → List Char → Option Nat
  | n, [] => some n
  | n, c :: cs => (digit base c).bind fun d => digits base (n * base + d) cs

/-- A number, decimal or `0x`-hex, with at least one digit (R78). -/
def number : List Char → Option Nat
  | [] => none
  | ['0', 'x'] => none
  | '0' :: 'x' :: cs => digits 16 0 cs
  | cs => digits 10 0 cs

/-- Put a byte before a literal read so far. -/
def consByte (b : Byte) (r : Option (List Byte × List Char)) : Option (List Byte × List Char) :=
  r.map fun (bs, rest) => (b :: bs, rest)

/-- The bytes of a literal up to its closing quote `q`, and the text after it, with the escapes of R78. -/
def literal (q : Char) : List Char → Option (List Byte × List Char)
  | [] => none
  | '\\' :: 't' :: cs => consByte 0x09#8 (literal q cs)
  | '\\' :: 'n' :: cs => consByte 0x0A#8 (literal q cs)
  | '\\' :: 'v' :: cs => consByte 0x0B#8 (literal q cs)
  | '\\' :: 'r' :: cs => consByte 0x0D#8 (literal q cs)
  | '\\' :: '0' :: cs => consByte 0x00#8 (literal q cs)
  | '\\' :: '\\' :: cs => consByte 0x5C#8 (literal q cs)
  | '\\' :: '\'' :: cs => consByte 0x27#8 (literal q cs)
  | '\\' :: 'x' :: h :: l :: cs =>
    (digits 16 0 [h, l]).bind fun n => consByte (BitVec.ofNat 8 n) (literal q cs)
  | '\\' :: _ => none
  | c :: cs =>
    if c = q then some ([], cs)
    else if c.toNat < 128 then consByte (BitVec.ofNat 8 c.toNat) (literal q cs)
    else none

/-- The text without its leading spaces. -/
def skipSpaces (cs : List Char) : List Char := cs.dropWhile (· == ' ')

/-- One operand and the text after it. -/
def operand (cs : List Char) : Option (Operand × List Char) :=
  match skipSpaces cs with
  | '\'' :: rest =>
    match literal '\'' rest with
    | some ([b], after) => some (.chr b, after)
    | _ => none
  | '"' :: rest => (literal '"' rest).map fun (s, after) => (.str s, after)
  | rest => (number (rest.takeWhile Char.isAlphanum)).map fun n => (.num n, rest.dropWhile Char.isAlphanum)

/-- The operands of a line, separated by commas; `fuel` bounds their number. -/
def operands : Nat → List Char → Option (List Operand)
  | 0, _ => none
  | fuel + 1, cs =>
    (operand cs).bind fun (o, rest) =>
      match skipSpaces rest with
      | [] => some [o]
      | ',' :: after => (operands fuel after).map (o :: ·)
      | _ => none

/-- The value of an operand `<b>`, `<c>` or `<sym>`: a number or a character literal (R78). -/
def byteOperand : Operand → Option Nat
  | .num n => some n
  | .chr b => some b.toNat
  | .str _ => none

/-- The line a mnemonic and its operands write (R78, R79). An `<idx>` and a `<p>` are numbers, not literals. -/
def sourceOf : List Char → List Operand → Option Source
  | ['n', 'o', 'p'], [] => some .nop
  | ['c', 'l', 'e', 'a', 'r'], [] => some .clear
  | ['c', 'f', 'g', '.', 'a', 'l', 'p', 'h', 'a'], [.num idx, sym] => (byteOperand sym).map (.cfgAlpha idx)
  | ['c', 'f', 'g', '.', 'd', 'e', 'f', 'a', 'u', 'l', 't'], [] => some .cfgDefault
  | ['e', 'n', 'c', '.', 's', 't', 'a', 'r', 't'], [.num p] => some (.encStart p)
  | ['e', 'n', 'c', '.', 'b', 'y', 't', 'e'], [b] => (byteOperand b).map .encByte
  | ['e', 'n', 'c', '.', 'f', 'i', 'n', 'i', 's', 'h'], [] => some .encFinish
  | ['d', 'e', 'c', '.', 's', 't', 'a', 'r', 't'], [] => some .decStart
  | ['d', 'e', 'c', '.', 'c', 'h', 'a', 'r'], [c] => (byteOperand c).map .decChar
  | ['d', 'e', 'c', '.', 'f', 'i', 'n', 'i', 's', 'h'], [] => some .decFinish
  | ['e', 'n', 'c', 'o', 'd', 'e'], [.str s, .num p] => some (.encode s p)
  | ['d', 'e', 'c', 'o', 'd', 'e'], [.str s] => some (.decode s)
  | ['c', 'f', 'g', '.', 'a', 'l', 'p', 'h', 'a', 'b', 'e', 't'], [.str s] => some (.cfgAlphabet s)
  | _, _ => none

/-- One line of assembler text: a mnemonic, then its operands. -/
def parseLine (cs : List Char) : Option Source :=
  let line := skipSpaces cs
  let name := line.takeWhile fun c => c != ' '
  let rest := skipSpaces (line.dropWhile fun c => c != ' ')
  match rest with
  | [] => sourceOf name []
  | _ => (operands rest.length rest).bind (sourceOf name)

/-- The words of one line of assembler text, or a refusal. -/
def assembleLine (cs : List Char) : Option (List Word) := (parseLine cs).bind assemble

end Sys2Proof.Machine
end

