-- ==== Sys2Proof/Machine/Reference.lean ====
section
/-! DEFINITION. The frame-level reference functions Encode_ref and Decode_ref (44_frame_reference R181, R182), on unbounded
natural numbers as the source has them, and the performance of a list of commands. No command calls them: they are what
the frames are compared with. -/

namespace Sys2Proof.Machine

/-- Step 2 of Encode_ref: the symbols of `remainder` while more than 4 bits are buffered, and the bits left. -/
def refDrain (A : Alphabet) : Nat → Nat → List Byte × Nat
  | size + 5, remainder =>
    let rest := refDrain A size remainder
    (entry A (BitVec.ofNat 5 ((remainder &&& (31 <<< size)) >>> size)) :: rest.1, rest.2)
  | size, _ => ([], size)

/-- Steps 1 and 2 of Encode_ref from a remainder and its size: the symbols, and the last remainder and size. -/
def refBytes (A : Alphabet) : List Byte → Nat → Nat → List Byte × Nat × Nat
  | [], remainder, size => ([], remainder, size)
  | b :: data, remainder, size =>
    let grown := remainder * 256 + b.toNat
    let here := refDrain A (size + 8) grown
    let later := refBytes A data grown here.2
    (here.1 ++ later.1, later.2)

/-- Encode_ref(A, data, p) (R181). -/
def encodeRef (A : Alphabet) (data : List Byte) (p : Bool) : List Byte :=
  let r := refBytes A data 0 0
  let remainder := r.2.1
  let size := r.2.2
  r.1
    ++ (if size > 0 then [entry A (BitVec.ofNat 5 ((remainder <<< (5 - size)) &&& 31))] else [])
    ++ (if p then List.replicate (padCount (data.length % 5)) Config.padChar else [])

/-- Step 2 of Decode_ref: the text without its trailing trim-set bytes. -/
def rtrim (text : List Byte) : List Byte := (text.reverse.dropWhile inTrim).reverse

/-- Steps 4 and 5 of Decode_ref from index `i`: the bytes, or the first unmapped character and its index. -/
def refChars (A : Alphabet) : List Byte → Nat → Nat → Nat → Except (Byte × Nat) (List Byte)
  | [], _, _, _ => .ok []
  | c :: text, i, buf, size =>
    match symbolMap A c with
    | none => .error (c, i)
    | some v =>
      let grown := buf * 32 + v.toNat
      if size + 5 > 7 then
        (refChars A text (i + 1) grown (size - 3)).map
          (BitVec.ofNat 8 ((grown &&& (0xFF <<< (size - 3))) >>> (size - 3)) :: ·)
      else refChars A text (i + 1) grown (size + 5)

/-- Decode_ref(A, text) (R182): the bytes, or InvalidSymbol(c, i). -/
def decodeRef (A : Alphabet) (text : List Byte) : Except (Byte × Nat) (List Byte) := refChars A (rtrim text) 0 0 0

/-- Perform commands one after the other, with no other command in between (20_memory R52). -/
def execAll : List Instr → State → Host.Outcome State Fault Refusal
  | [], s => .next s
  | i :: rest, s =>
    match exec i s with
    | .next t => execAll rest t
    | .fault r => .fault r
    | .refused r => .refused r

end Sys2Proof.Machine
end

