-- ==== Sys2Proof/Safety.lean ====
section
/-! DEFINITION. What claims speak of: the legality table, the bounds on output, the invariants between commands, what a
command leaves alone, the end of a run and its observation, and the results a consumer reads from the stream. -/

namespace Sys2Proof.Machine

/-- The legality table (60_exceptions R210). -/
def legal : Instr → Mode → Bool
  | .nop, _ => true
  | .clear, _ => true
  | .cfgAlpha _ _, m => m == .idle
  | .cfgDefault, m => m == .idle
  | .encStart _, m => m == .idle
  | .encByte _, m => m == .enc
  | .encFinish, m => m == .enc
  | .decStart, m => m == .idle
  | .decChar _, m => m == .dec || m == .decErr
  | .decFinish, m => m == .dec || m == .decErr

/-- The most items a command emits (70_reset_and_hazards R246). -/
def maxItems : Instr → Nat
  | .encByte _ => 2
  | .encFinish => 8
  | .decChar _ => 1
  | .decFinish => 1
  | .clear => 1
  | .nop => 0
  | .cfgAlpha _ _ => 0
  | .cfgDefault => 0
  | .encStart _ => 0
  | .decStart => 0

/-- The invariants of the frame registers between two commands (10_state R48; ENC_CNT5 in 0..4 by R30). -/
structure FrameInv (s : State) : Prop where
  encRs_le : s.encRs.toNat ≤ 4
  encAcc_lt : s.encAcc.toNat < 2 ^ s.encRs.toNat
  encCnt5_le : s.encCnt5.toNat ≤ 4
  encRs_eq : s.encRs.toNat = 3 * s.encCnt5.toNat % 5
  decBs_le : s.decBs.toNat ≤ 7
  decBuf_lt : s.decBuf.toNat < 2 ^ s.decBs.toNat
  encoder_idle : s.mode ≠ .enc → s.encAcc = 0#12 ∧ s.encRs = 0#4 ∧ s.encCnt5 = 0#3 ∧ s.pad = false
  decoder_idle : s.mode ≠ .dec ∧ s.mode ≠ .decErr →
    s.decBuf = 0#12 ∧ s.decBs = 0#4 ∧ s.decPos = 0#32 ∧ s.decHeld = false ∧ s.decHchar = 0#8 ∧ s.decHpos = 0#32
  held_clear : s.decHeld = false → s.decHchar = 0#8 ∧ s.decHpos = 0#32

/-- Every active frame runs under a valid alphabet (40_configuration R108). -/
def ConfigInv (s : State) : Prop := s.mode ≠ .idle → cfgValid s.alpha = true

/-- A held character is one of the trim set (10_state R34, 42_decoder R150). -/
def HeldInv (s : State) : Prop := s.decHeld = true → inTrim s.decHchar = true

/-- The captured word is one that raises the captured error (60_exceptions R200, R205; 10_state R35). -/
def CapturedWord (s : State) : Prop :=
  match s.errCode with
  | .none => s.errCmd = 0#32
  | .invalidSymbol => ∃ d, decode s.errCmd = some (.decChar d)
  | .configMismatch => (∃ p, decode s.errCmd = some (.encStart p)) ∨ decode s.errCmd = some .decStart
  | .sequence => ∃ i, decode s.errCmd = some i ∧ i ≠ .nop ∧ i ≠ .clear
  | .illegalCmd => decode s.errCmd = none

/-- The error capture is consistent (10_state R35, 60_exceptions R200): no overflow without a captured error, a character
and a position only with INVALID_SYMBOL, a fitting command word, and a failed frame has its error captured. -/
structure CaptureInv (s : State) : Prop where
  overflow_captured : s.errOvf = true → s.errCode ≠ .none
  char_pos_clear : s.errCode ≠ .invalidSymbol → s.errChar = 0#8 ∧ s.errPos = 0#32
  word_fits : CapturedWord s
  failed_captured : s.mode = .decErr → s.errCode ≠ .none

/-- The output port loses, repeats and reorders nothing (20_memory R59): the buffer holds at most OUT_DEPTH items, and the
last things the sink has seen are the items of OUT up to `taken`, in order. -/
structure OutputInv (s : State) : Prop where
  taken_le : s.taken ≤ s.out.length
  buffered_le : s.out.length - s.taken ≤ Config.outDepth
  sink_ends : (s.out.take s.taken).map SinkEvent.took <:+ s.sink

/-- With no frame active the last item of OUT, if there is one, is an END (10_state R36, R37): no DATA item is left without
the END of its frame. -/
def OutClosed (s : State) : Prop := s.mode = .idle → ∀ b, s.out.getLast? ≠ some (.data b)

/-- The encoder's registers and PAD are the same. -/
def SameEncoder (s t : State) : Prop :=
  t.encAcc = s.encAcc ∧ t.encRs = s.encRs ∧ t.encCnt5 = s.encCnt5 ∧ t.pad = s.pad

/-- The decoder's registers are the same. -/
def SameDecoder (s t : State) : Prop :=
  t.decBuf = s.decBuf ∧ t.decBs = s.decBs ∧ t.decPos = s.decPos ∧ t.decHeld = s.decHeld ∧ t.decHchar = s.decHchar
    ∧ t.decHpos = s.decHpos

/-- The error capture is the same. -/
def SameCapture (s t : State) : Prop :=
  t.errCode = s.errCode ∧ t.errOvf = s.errOvf ∧ t.errChar = s.errChar ∧ t.errPos = s.errPos ∧ t.errCmd = s.errCmd

/-- The outside ends of the ports are the same. -/
def SamePorts (s t : State) : Prop :=
  t.taken = s.taken ∧ t.sink = s.sink ∧ t.cmdPort = s.cmdPort ∧ t.inbox = s.inbox ∧ t.reads = s.reads

/-- NO_ERROR_RECORDED (93_implementation_defined). -/
def NoErrorRecorded (s : State) : Prop := s.errCode = .none

/-- A run has ended (70_reset_and_hazards R248): every command performed, no frame open, every item taken. -/
def RunEnded (s : State) : Prop := s.inbox = [] ∧ s.cmdPort = [] ∧ s.mode = .idle ∧ s.taken = s.out.length

/-- What a run shows (70_reset_and_hazards R248). -/
structure Observation where
  items : List OutItem
  registers : List Word
  reads : List (RAddr × Word)
  deriving DecidableEq, Repr

/-- The observation of a run that ends in `s`. -/
def observe (s : State) : Observation :=
  ⟨s.out, (List.range 64).map fun a => readReg s (BitVec.ofNat 6 a), s.reads⟩

/-- A frame's result (44_frame_reference R180): its data, or failure. -/
inductive FrameResult where
  | ok (data : List Byte)
  | failed (status : EndStatus)
  deriving DecidableEq, Repr

/-- The results of the frames in what a sink has seen (10_state R37; 70_reset_and_hazards R231, R247): the DATA items of a
frame count only when its END says OK; a reset aborts every frame then open, with or without DATA items taken; a frame
still open at the end has no result yet. `data` is what the open frame has given so far (log entry 8). -/
def frameResults : List SinkEvent → List Byte → List FrameResult
  | [], _ => []
  | .took (.data b) :: rest, data => frameResults rest (data ++ [b])
  | .took (.endFrame .ok) :: rest, data => .ok data :: frameResults rest []
  | .took (.endFrame .invalid) :: rest, _ => .failed .invalid :: frameResults rest []
  | .took (.endFrame .aborted) :: rest, _ => .failed .aborted :: frameResults rest []
  | .sawReset n :: rest, _ => List.replicate n (.failed .aborted) ++ frameResults rest []

end Sys2Proof.Machine
end

