-- ==== Sys2Proof/Certificates/Slice0/Obligations.lean ====
section
/-! DEFINITION. The statements for the provers. Each docstring names the rule of the spec it formalises. -/

open Sys2Proof Sys2Proof.Machine

/-! ## Encoding (30_encoding) -/

/-- Every command is decoded from its own word, with every operand at every value (R71, R72, R74). -/
def Obligations.DecodeOfEncodeIsIdentity : Prop := ∀ i : Instr, decode (encode i) = some i

/-- A word that decodes to a command is that command's word: decoding drops no bit (R74, R75). -/
def Obligations.EncodeOfDecodeIsIdentity : Prop := ∀ (w : Word) (i : Instr), decode w = some i → encode i = w

/-- R74, command by command: the masked word is the command's match word, and the operands are the fields of R72. -/
def Obligations.WordIsCommandIffMaskedWordMatches : Prop :=
  ∀ w : Word,
    (decode w = some .nop ↔ w &&& 0xFFFFFFFF#32 = 0x00000000#32)
    ∧ (decode w = some .clear ↔ w &&& 0xFFFFFFFF#32 = 0x10000000#32)
    ∧ (∀ idx d, decode w = some (.cfgAlpha idx d) ↔
        w &&& 0xFFFFE000#32 = 0x20000000#32 ∧ idx = w.extractLsb' 8 5 ∧ d = w.extractLsb' 0 8)
    ∧ (decode w = some .cfgDefault ↔ w &&& 0xFFFFFFFF#32 = 0x30000000#32)
    ∧ (∀ p, decode w = some (.encStart p) ↔ w &&& 0xFFFEFFFF#32 = 0x40000000#32 ∧ p = w.getLsbD 16)
    ∧ (∀ d, decode w = some (.encByte d) ↔ w &&& 0xFFFFFF00#32 = 0x50000000#32 ∧ d = w.extractLsb' 0 8)
    ∧ (decode w = some .encFinish ↔ w &&& 0xFFFFFFFF#32 = 0x60000000#32)
    ∧ (decode w = some .decStart ↔ w &&& 0xFFFFFFFF#32 = 0x80000000#32)
    ∧ (∀ d, decode w = some (.decChar d) ↔ w &&& 0xFFFFFF00#32 = 0x90000000#32 ∧ d = w.extractLsb' 0 8)
    ∧ (decode w = some .decFinish ↔ w &&& 0xFFFFFFFF#32 = 0xA0000000#32)

/-- R75 and R213: a word is illegal iff its OP names no command or a must-be-zero bit of R71 is set; performing it in any
state records ILLEGAL_CMD, or sets ERR_OVF when an error is captured already, and changes nothing else. -/
def Obligations.IllegalWordsAreRecordedOnly : Prop :=
  ∀ w : Word,
    (decode w = none ↔
      (w.extractLsb' 28 4 = 0x7#4 ∨ 0xB#4 ≤ w.extractLsb' 28 4)
      ∨ (w.extractLsb' 28 4 ∈ [0x0#4, 0x1#4, 0x3#4, 0x6#4, 0x8#4, 0xA#4] ∧ w.extractLsb' 0 28 ≠ 0#28)
      ∨ (w.extractLsb' 28 4 = 0x2#4 ∧ w.extractLsb' 13 15 ≠ 0#15)
      ∨ (w.extractLsb' 28 4 = 0x4#4 ∧ (w.extractLsb' 17 11 ≠ 0#11 ∨ w.extractLsb' 0 16 ≠ 0#16))
      ∨ (w.extractLsb' 28 4 ∈ [0x5#4, 0x9#4] ∧ w.extractLsb' 8 20 ≠ 0#20))
    ∧ (decode w = none → ∀ s : State,
        performWord w s = .next
          (if s.errCode = .none then { s with errCode := .illegalCmd, errChar := 0#8, errPos := 0#32, errCmd := w }
           else { s with errOvf := true }))
    ∧ (w ∈ [0x70000000#32, 0x00000001#32, 0x40000001#32, 0x50000100#32, 0x90010041#32] → decode w = none)

/-- The worked encodings of R80, both ways. -/
def Obligations.WorkedEncodingsAgree : Prop :=
  (encode (.encStart true) = 0x40010000#32 ∧ decode 0x40010000#32 = some (.encStart true))
  ∧ (encode (.encByte 0x66#8) = 0x50000066#32 ∧ decode 0x50000066#32 = some (.encByte 0x66#8))
  ∧ (encode (.decChar 0x4D#8) = 0x9000004D#32 ∧ decode 0x9000004D#32 = some (.decChar 0x4D#8))
  ∧ (encode (.decChar 0x0A#8) = 0x9000000A#32 ∧ decode 0x9000000A#32 = some (.decChar 0x0A#8))
  ∧ (encode (.cfgAlpha 31#5 0x37#8) = 0x20001F37#32 ∧ decode 0x20001F37#32 = some (.cfgAlpha 31#5 0x37#8))
  ∧ (encode (.cfgAlpha 0#5 0x61#8) = 0x20000061#32 ∧ decode 0x20000061#32 = some (.cfgAlpha 0#5 0x61#8))

/-- The words of the assembler's lines and pseudo-instructions, with an operand out of range refused and not truncated
(R78, R79; the text syntax itself is not part of this statement). -/
def Obligations.AssemblerEmitsTableWordsOrRefuses : Prop :=
  (assemble .nop = some [0x00000000#32] ∧ assemble .clear = some [0x10000000#32]
    ∧ assemble .cfgDefault = some [0x30000000#32] ∧ assemble .encFinish = some [0x60000000#32]
    ∧ assemble .decStart = some [0x80000000#32] ∧ assemble .decFinish = some [0xA0000000#32])
  ∧ (∀ idx sym : Nat, assemble (.cfgAlpha idx sym) =
      if idx ≤ 31 ∧ sym ≤ 255 then some [BitVec.ofNat 32 (0x20000000 + idx * 256 + sym)] else none)
  ∧ (∀ p : Nat, assemble (.encStart p) = if p ≤ 1 then some [BitVec.ofNat 32 (0x40000000 + p * 65536)] else none)
  ∧ (∀ b : Nat, assemble (.encByte b) = if b ≤ 255 then some [BitVec.ofNat 32 (0x50000000 + b)] else none)
  ∧ (∀ c : Nat, assemble (.decChar c) = if c ≤ 255 then some [BitVec.ofNat 32 (0x90000000 + c)] else none)
  ∧ (∀ (s : List Byte) (p : Nat), assemble (.encode s p) =
      if p ≤ 1 then
        some (BitVec.ofNat 32 (0x40000000 + p * 65536)
          :: (s.map (fun b => BitVec.ofNat 32 (0x50000000 + b.toNat)) ++ [0x60000000#32]))
      else none)
  ∧ (∀ s : List Byte, assemble (.decode s) =
      some (0x80000000#32 :: (s.map (fun c => BitVec.ofNat 32 (0x90000000 + c.toNat)) ++ [0xA0000000#32])))
  ∧ (∀ s : List Byte, assemble (.cfgAlphabet s) =
      if s.length = 32 then
        some (List.zipWith (fun k c => BitVec.ofNat 32 (0x20000000 + k * 256 + c.toNat)) (List.range 32) s)
      else none)

/-! ## The register-read port, the other ports and reset (10_state, 20_memory, 70_reset_and_hazards) -/

/-- The fields of STATUS in every state, the reserved ones zero (R40), with the codes of MODE (R24) and ERR_CODE (R35). -/
def Obligations.StatusFieldsShowTheState : Prop :=
  ∀ s : State,
    (readReg s 0#6).extractLsb' 0 2
        = (match s.mode with | .idle => 0#2 | .enc => 1#2 | .dec => 2#2 | .decErr => 3#2)
    ∧ (readReg s 0#6).getLsbD 2 = cfgValid s.alpha
    ∧ (readReg s 0#6).getLsbD 3 = s.pad
    ∧ (readReg s 0#6).extractLsb' 4 4 = 0#4
    ∧ (readReg s 0#6).extractLsb' 8 3
        = (match s.errCode with
           | .none => 0#3 | .invalidSymbol => 1#3 | .configMismatch => 2#3 | .sequence => 3#3 | .illegalCmd => 4#3)
    ∧ (readReg s 0#6).getLsbD 11 = s.errOvf
    ∧ (readReg s 0#6).extractLsb' 12 20 = 0#20

/-- The other registers of the read map, with their values at reset (R41 to R46), and a register read leaves every element of
the block as it was (R39, R55). That the values read are kept in `reads` is the model's choice (log entry 1). -/
def Obligations.RegisterMapReadsTheState : Prop :=
  (∀ s : State,
    readReg s 1#6 = s.errChar.setWidth 32 ∧ readReg s 2#6 = s.errPos ∧ readReg s 3#6 = s.errCmd
    ∧ readReg s 4#6 = 0x0000001F#32
    ∧ (∀ a : RAddr, 5 ≤ a.toNat → a.toNat ≤ 31 → readReg s a = 0x00000000#32)
    ∧ (∀ i : SymVal, readReg s (BitVec.ofNat 6 (32 + i.toNat)) = (entry s.alpha i).setWidth 32)
    ∧ (∀ a : RAddr, readPort a s = { s with reads := s.reads ++ [(a, readReg s a)] }))
  ∧ readReg State.reset 1#6 = 0x00000000#32 ∧ readReg State.reset 2#6 = 0x00000000#32
  ∧ readReg State.reset 3#6 = 0x00000000#32 ∧ readReg State.reset 4#6 = 0x0000001F#32
  ∧ (∀ i : SymVal, readReg State.reset (BitVec.ofNat 6 (32 + i.toNat)) = (entry Config.defaultAlphabet i).setWidth 32)
  ∧ readReg State.reset 32#6 = 0x00000041#32 ∧ readReg State.reset 63#6 = 0x00000037#32

/-- The frame registers other than PAD cannot be read through the register port: two states that agree on the rest read
the same at every address (R48, hidden state). -/
def Obligations.HiddenStateCannotBeRead : Prop :=
  ∀ (s t : State) (a : RAddr), t.mode = s.mode → t.alpha = s.alpha → t.pad = s.pad → SameCapture s t →
    readReg t a = readReg s a

/-- What the host and the sink do to the state (R249): sending puts a word behind those that wait, a register read adds
its value to what was read, and the sink takes the next item, the one after those it has taken, or none. That these are
steps of one machine is the model's choice (log entry 1). -/
def Obligations.HostAndSinkActionsTouchTheirPortOnly : Prop :=
  ∀ (s : State) (rest : List HostAction),
    (∀ w, s.inbox = .send w :: rest → step s = .next { s with inbox := rest, cmdPort := s.cmdPort ++ [w] })
    ∧ (∀ a, s.inbox = .read a :: rest → step s = .next { s with inbox := rest, reads := s.reads ++ [(a, readReg s a)] })
    ∧ (∀ item later, s.inbox = .take :: rest → s.out.drop s.taken = item :: later →
        step s = .next { s with inbox := rest, taken := s.taken + 1, sink := s.sink ++ [.took item] })
    ∧ (s.inbox = .take :: rest → s.out.drop s.taken = [] → step s = .next { s with inbox := rest })

/-- The value of every state element and of every register right after reset (R230), which a reset leads to from any state.
That the command port is then empty is DEDUCED (R232, log entry 5), and that no item counts as taken is the model's choice
(log entry 1). -/
def Obligations.ResetSetsEveryElement : Prop :=
  (State.reset.mode = .idle ∧ State.reset.pad = false)
  ∧ (State.reset.encAcc = 0#12 ∧ State.reset.encRs = 0#4 ∧ State.reset.encCnt5 = 0#3)
  ∧ (State.reset.decBuf = 0#12 ∧ State.reset.decBs = 0#4 ∧ State.reset.decPos = 0#32 ∧ State.reset.decHeld = false
    ∧ State.reset.decHchar = 0#8 ∧ State.reset.decHpos = 0#32)
  ∧ (State.reset.errCode = .none ∧ State.reset.errOvf = false ∧ State.reset.errChar = 0#8 ∧ State.reset.errPos = 0#32
    ∧ State.reset.errCmd = 0#32)
  ∧ (∀ i : SymVal, entry State.reset.alpha i
      = if i.toNat < 26 then BitVec.ofNat 8 (0x41 + i.toNat) else BitVec.ofNat 8 (0x32 + (i.toNat - 26)))
  ∧ State.reset.out = []
  ∧ (readReg State.reset 0#6 = 0x00000004#32 ∧ readReg State.reset 1#6 = 0#32 ∧ readReg State.reset 2#6 = 0#32
    ∧ readReg State.reset 3#6 = 0#32 ∧ readReg State.reset 4#6 = 0x0000001F#32)
  ∧ (∀ i : SymVal, readReg State.reset (BitVec.ofNat 6 (32 + i.toNat)) = (entry State.reset.alpha i).setWidth 32)
  ∧ (∀ (s : State) (rest : List HostAction), s.inbox = .reset :: rest →
      ∃ t, step s = .next t ∧ { t with sink := [], inbox := [], reads := [] } = State.reset)

/-- Reset empties OUT without an END, drops the words the port has not accepted, recalls nothing the sink has, and gives every
frame that was open for the sink the result 'aborted' (R231, R232; which words are dropped is DEDUCED, log entry 5, and
which frames are open is DEDUCED, log entry 8). -/
def Obligations.ResetDropsItemsAndWaitingWords : Prop :=
  ∀ (s : State) (rest : List HostAction), s.inbox = .reset :: rest →
    ∃ t, step s = .next t ∧ t.out = [] ∧ t.taken = 0 ∧ t.cmdPort = [] ∧ t.sink = s.sink ++ [.sawReset (openFrames s)]
      ∧ t.inbox = rest ∧ t.reads = s.reads
      ∧ frameResults t.sink [] = frameResults s.sink [] ++ List.replicate (openFrames s) (.failed .aborted)
      ∧ (0 < openFrames s ↔ s.mode ≠ .idle ∨ ∃ st, OutItem.endFrame st ∈ s.out.drop s.taken)

/-! ## Configuration (40_configuration) -/

/-- R100: CFG_ALPHA writes its one entry in mode IDLE, and is a SequenceError in every other mode. -/
def Obligations.CfgAlphaWritesItsEntry : Prop :=
  (∀ (s : State) (idx : SymVal) (d : Byte),
    (s.mode = .idle → ∃ A : Alphabet, exec (.cfgAlpha idx d) s = .next { s with alpha := A }
      ∧ entry A idx = d ∧ ∀ j, j ≠ idx → entry A j = entry s.alpha j)
    ∧ (s.mode = .idle → entry s.alpha idx = d → exec (.cfgAlpha idx d) s = .next s)
    ∧ (s.mode ≠ .idle → exec (.cfgAlpha idx d) s = .next (record .sequence 0#8 0#32 (encode (.cfgAlpha idx d)) s))
    ∧ encode (.cfgAlpha idx d) = 0x20000000#32 ||| (idx.setWidth 32 <<< 8) ||| d.setWidth 32)
  ∧ (∃ t, exec (.cfgAlpha 0#5 0x61#8) State.reset = .next t ∧ entry t.alpha 0#5 = 0x61#8 ∧ cfgValid t.alpha = true)

/-- R102: CFG_DEFAULT restores the default alphabet, which is valid, in mode IDLE; elsewhere it is a SequenceError. -/
def Obligations.CfgDefaultRestoresTheValidDefault : Prop :=
  (∀ s : State,
    (s.mode = .idle → exec .cfgDefault s = .next { s with alpha := Config.defaultAlphabet })
    ∧ (s.mode ≠ .idle → exec .cfgDefault s = .next (record .sequence 0#8 0#32 0x30000000#32 s)))
  ∧ (∀ i : SymVal, entry Config.defaultAlphabet i
      = if i.toNat < 26 then BitVec.ofNat 8 (0x41 + i.toNat) else BitVec.ofNat 8 (0x32 + (i.toNat - 26)))
  ∧ cfgValid Config.defaultAlphabet = true ∧ encode .cfgDefault = 0x30000000#32
  ∧ (∀ t, exec (.cfgAlpha 5#5 0x41#8) State.reset = .next t →
      cfgValid t.alpha = false ∧ exec .cfgDefault t = .next State.reset)

/-- R106: valid means pairwise distinct lower-case images, and no entry in the trim set; the first condition is the same as
the four pairwise conditions. -/
def Obligations.ValidityIsDistinctFoldsAndNoTrimByte : Prop :=
  ∀ A : Alphabet,
    (cfgValid A = true ↔
      (∀ i j : SymVal, i ≠ j → lc (entry A i) ≠ lc (entry A j))
      ∧ ∀ i : SymVal, entry A i ∉ [0x3D#8, 0x20#8, 0x09#8, 0x0A#8, 0x0D#8, 0x00#8, 0x0B#8])
    ∧ ((∀ i j : SymVal, i ≠ j → lc (entry A i) ≠ lc (entry A j)) ↔
      ∀ i j : SymVal, i ≠ j → entry A i ≠ entry A j ∧ lc (entry A i) ≠ entry A j ∧ entry A i ≠ lc (entry A j)
        ∧ lc (entry A i) ≠ lc (entry A j))

/-- R109: under a valid alphabet a byte is accepted by at most one entry. -/
def Obligations.ValidAlphabetAcceptsAtOneIndex : Prop :=
  ∀ (A : Alphabet) (c : Byte) (i j : SymVal), cfgValid A = true →
    (entry A i = c ∨ lc (entry A i) = c) → (entry A j = c ∨ lc (entry A j) = c) → i = j

/-- R141: map(c) is the least index whose entry, or its lower-case image, is c; none if there is no such index. -/
def Obligations.SymbolMapIsLeastAcceptingIndex : Prop :=
  ∀ (A : Alphabet) (c : Byte),
    (∀ i : SymVal, symbolMap A c = some i ↔
      (entry A i = c ∨ lc (entry A i) = c) ∧ ∀ j : SymVal, j < i → ¬(entry A j = c ∨ lc (entry A j) = c))
    ∧ (symbolMap A c = none ↔ ∀ i : SymVal, ¬(entry A i = c ∨ lc (entry A i) = c))

/-- Under the default alphabet exactly 'A'..'Z', 'a'..'z' and '2'..'7' are accepted, a letter in either case with one
value (R142). -/
def Obligations.DefaultAlphabetAcceptsLettersAndDigits : Prop :=
  ∀ c : Byte, symbolMap Config.defaultAlphabet c =
    if 0x41#8 ≤ c ∧ c ≤ 0x5A#8 then some (BitVec.ofNat 5 (c.toNat - 0x41))
    else if 0x61#8 ≤ c ∧ c ≤ 0x7A#8 then some (BitVec.ofNat 5 (c.toNat - 0x61))
    else if 0x32#8 ≤ c ∧ c ≤ 0x37#8 then some (BitVec.ofNat 5 (c.toNat - 0x32 + 26))
    else none

/-- Folding goes one way only: for an entry that is a lower-case letter of a valid alphabet the letter maps to its index
and its upper-case form does not map (R142; 90_conflicts C5). -/
def Obligations.FoldingIsOneWay : Prop :=
  ∀ (A : Alphabet) (i : SymVal), cfgValid A = true → 0x61#8 ≤ entry A i → entry A i ≤ 0x7A#8 →
    symbolMap A (entry A i) = some i ∧ symbolMap A (entry A i - 0x20#8) = none

/-- An alphabet that held a trim-set byte would break the round trip: the five bytes 0, 0, 0, 0, k, whose encoding ends in
that byte, are not decoded back (R107). -/
def Obligations.TrimByteInAlphabetBreaksRoundTrip : Prop :=
  ∀ (A : Alphabet) (k : SymVal) (p : Bool), inTrim (entry A k) = true →
    decodeRef A (encodeRef A [0#8, 0#8, 0#8, 0#8, k.setWidth 8] p) ≠ .ok [0#8, 0#8, 0#8, 0#8, k.setWidth 8]

/-- R202: in mode IDLE with an invalid alphabet a START records CONFIG_MISMATCH with its own word, character and position
0, and has no other effect. -/
def Obligations.InvalidAlphabetRefusesStart : Prop :=
  ∀ (s : State) (i : Instr), (i = .decStart ∨ ∃ p, i = .encStart p) → s.mode = .idle → cfgValid s.alpha = false →
    exec i s = .next
      (if s.errCode = .none then
        { s with errCode := .configMismatch, errChar := 0#8, errPos := 0#32, errCmd := encode i }
       else { s with errOvf := true })

/-! ## Encoder (41_encoder) -/

/-- R120: ENC_START. -/
def Obligations.EncStartBeginsAnEmptyFrame : Prop :=
  (∀ (s : State) (p : Bool),
    (s.mode = .idle → cfgValid s.alpha = true →
      exec (.encStart p) s = .next { s with mode := .enc, pad := p, encAcc := 0#12, encRs := 0#4, encCnt5 := 0#3 })
    ∧ (s.mode ≠ .idle → exec (.encStart p) s = .next (record .sequence 0#8 0#32 (encode (.encStart p)) s))
    ∧ (s.mode = .idle → cfgValid s.alpha = false →
      exec (.encStart p) s = .next (record .configMismatch 0#8 0#32 (encode (.encStart p)) s)))
  ∧ encode (.encStart false) = 0x40000000#32 ∧ encode (.encStart true) = 0x40010000#32
  ∧ (∃ t, exec (.encStart true) State.reset = .next t ∧ readReg t 0#6 = 0x0000000D#32)

/-- R121: ENC_BYTE shifts its byte in and runs the loop, whose two cases are the equations of `drain`. -/
def Obligations.EncByteShiftsInAndDrains : Prop :=
  (∀ (s : State) (d : Byte),
    (s.mode = .enc → ∃ (items : List Byte) (acc : BitVec 12) (rs : Nat),
      drain s.alpha (s.encRs.toNat + 8) ((s.encAcc <<< 8) ||| d.setWidth 12) = (items, acc, rs)
      ∧ exec (.encByte d) s = .next { s with
          encAcc := acc, encRs := BitVec.ofNat 4 rs, encCnt5 := BitVec.ofNat 3 ((s.encCnt5.toNat + 1) % 5)
          out := s.out ++ items.map .data })
    ∧ (s.mode ≠ .enc → exec (.encByte d) s = .next (record .sequence 0#8 0#32 (encode (.encByte d)) s))
    ∧ encode (.encByte d) = 0x50000000#32 ||| d.setWidth 32)
  ∧ (∀ (A : Alphabet) (rs : Nat) (acc : BitVec 12),
    (rs ≤ 4 → drain A rs acc = ([], acc, rs))
    ∧ (∀ items last left, drain A rs (acc &&& ((1#12 <<< rs) - 1#12)) = (items, last, left) →
      drain A (rs + 5) acc
        = (entry A (((acc &&& (0x01F#12 <<< rs)) >>> rs).setWidth 5) :: items, last, left)))
  ∧ (∀ s : State, s.mode = .enc → s.encAcc = 0#12 → s.encRs = 0#4 → s.encCnt5 = 0#3 →
    s.alpha = Config.defaultAlphabet →
    exec (.encByte 0x66#8) s
      = .next { s with encAcc := 6#12, encRs := 3#4, encCnt5 := 1#3, out := s.out ++ [.data 0x4D#8] })

/-- R125: the groups one ENC_BYTE emits, and what it leaves, by ENC_RS before it, with acc = {ENC_ACC, D}. -/
def Obligations.EncByteEmitsByTable : Prop :=
  ∀ (s : State) (d : Byte) (acc : BitVec 20) (cnt : BitVec 3), s.mode = .enc → acc = s.encAcc ++ d →
    cnt = BitVec.ofNat 3 ((s.encCnt5.toNat + 1) % 5) →
    (s.encRs = 0#4 → exec (.encByte d) s = .next { s with
      encAcc := (acc.extractLsb' 0 3).setWidth 12, encRs := 3#4, encCnt5 := cnt
      out := s.out ++ [.data (entry s.alpha (acc.extractLsb' 3 5))] })
    ∧ (s.encRs = 1#4 → exec (.encByte d) s = .next { s with
      encAcc := (acc.extractLsb' 0 4).setWidth 12, encRs := 4#4, encCnt5 := cnt
      out := s.out ++ [.data (entry s.alpha (acc.extractLsb' 4 5))] })
    ∧ (s.encRs = 2#4 → exec (.encByte d) s = .next { s with
      encAcc := 0#12, encRs := 0#4, encCnt5 := cnt
      out := s.out ++ [.data (entry s.alpha (acc.extractLsb' 5 5)), .data (entry s.alpha (acc.extractLsb' 0 5))] })
    ∧ (s.encRs = 3#4 → exec (.encByte d) s = .next { s with
      encAcc := (acc.extractLsb' 0 1).setWidth 12, encRs := 1#4, encCnt5 := cnt
      out := s.out ++ [.data (entry s.alpha (acc.extractLsb' 6 5)), .data (entry s.alpha (acc.extractLsb' 1 5))] })
    ∧ (s.encRs = 4#4 → exec (.encByte d) s = .next { s with
      encAcc := (acc.extractLsb' 0 2).setWidth 12, encRs := 2#4, encCnt5 := cnt
      out := s.out ++ [.data (entry s.alpha (acc.extractLsb' 7 5)), .data (entry s.alpha (acc.extractLsb' 2 5))] })

/-- R130 with R131 and R132: ENC_FINISH emits the final partial group, the padding and END(0), and clears the frame. -/
def Obligations.EncFinishClosesTheFrame : Prop :=
  (∀ s : State,
    (s.mode = .enc → exec .encFinish s = .next { s with
      mode := .idle, pad := false, encAcc := 0#12, encRs := 0#4, encCnt5 := 0#3
      out := s.out
        ++ (if s.encRs.toNat > 0 then
              [.data (entry s.alpha (((s.encAcc <<< (5 - s.encRs.toNat)) &&& 0x01F#12).setWidth 5))] else [])
        ++ (if s.pad = true then List.replicate (padCount s.encCnt5.toNat) (.data 0x3D#8) else [])
        ++ [.endFrame .ok] })
    ∧ (s.mode ≠ .enc → exec .encFinish s = .next (record .sequence 0#8 0#32 0x60000000#32 s)))
  ∧ encode .encFinish = 0x60000000#32
  ∧ (padCount 0 = 0 ∧ padCount 1 = 6 ∧ padCount 2 = 4 ∧ padCount 3 = 3 ∧ padCount 4 = 1)
  ∧ (∀ s : State, s.mode = .enc → s.encAcc = 6#12 → s.encRs = 3#4 → s.pad = false → s.alpha = Config.defaultAlphabet →
    ∃ t, exec .encFinish s = .next t ∧ t.out = s.out ++ [.data 0x59#8, .endFrame .ok])

/-! ## Decoder (42_decoder) -/

/-- R140: DEC_START. -/
def Obligations.DecStartBeginsAnEmptyFrame : Prop :=
  (∀ s : State,
    (s.mode = .idle → cfgValid s.alpha = true →
      exec .decStart s = .next { s with
        mode := .dec, decBuf := 0#12, decBs := 0#4, decPos := 0#32, decHeld := false, decHchar := 0#8, decHpos := 0#32 })
    ∧ (s.mode ≠ .idle → exec .decStart s = .next (record .sequence 0#8 0#32 0x80000000#32 s))
    ∧ (s.mode = .idle → cfgValid s.alpha = false →
      exec .decStart s = .next (record .configMismatch 0#8 0#32 0x80000000#32 s)))
  ∧ encode .decStart = 0x80000000#32
  ∧ (∃ t, exec .decStart State.reset = .next t ∧ readReg t 0#6 = 0x00000006#32)

/-- In mode DEC a trim-set character is held: the first of a run is recorded with its index, and only DEC_POS advances
for a later one (R145, R150). -/
def Obligations.DecCharHoldsTrimCharacters : Prop :=
  ∀ (s : State) (d : Byte), s.mode = .dec → d ∈ [0x3D#8, 0x20#8, 0x09#8, 0x0A#8, 0x0D#8, 0x00#8, 0x0B#8] →
    (s.decHeld = false → exec (.decChar d) s = .next { s with
      decHeld := true, decHchar := d, decHpos := s.decPos, decPos := s.decPos + 1#32 })
    ∧ (s.decHeld = true → exec (.decChar d) s = .next { s with decPos := s.decPos + 1#32 })

/-- In mode DEC a character outside the trim set raises InvalidSymbol, for the held character if one is held and else for
itself if it does not map; the position is a 0-based index, and DEC_POS, DEC_BUF, DEC_BS and OUT stay
(R145, R151, R152, R201). -/
def Obligations.DecCharRaisesInvalidSymbol : Prop :=
  ∀ (s : State) (d : Byte), s.mode = .dec → inTrim d = false →
    (s.decHeld = true → exec (.decChar d) s = .next
      (if s.errCode = .none then
        { s with mode := .decErr, errCode := .invalidSymbol, errChar := s.decHchar, errPos := s.decHpos
                 errCmd := 0x90000000#32 ||| d.setWidth 32 }
       else { s with mode := .decErr, errOvf := true }))
    ∧ (s.decHeld = false → (∀ i, entry s.alpha i ≠ d ∧ lc (entry s.alpha i) ≠ d) → exec (.decChar d) s = .next
      (if s.errCode = .none then
        { s with mode := .decErr, errCode := .invalidSymbol, errChar := d, errPos := s.decPos
                 errCmd := 0x90000000#32 ||| d.setWidth 32 }
       else { s with mode := .decErr, errOvf := true }))

/-- R149: the byte one accepted symbol emits, and what it leaves, by DEC_BS before it, with buf = {DEC_BUF, v}. -/
def Obligations.DecCharEmitsByTable : Prop :=
  ∀ (s : State) (d : Byte) (v : SymVal) (buf : BitVec 17), s.mode = .dec → inTrim d = false → s.decHeld = false →
    symbolMap s.alpha d = some v → buf = s.decBuf ++ v → s.decBuf.toNat < 2 ^ s.decBs.toNat →
    (s.decBs = 0#4 → exec (.decChar d) s = .next { s with
      decBuf := (buf.extractLsb' 0 5).setWidth 12, decBs := 5#4, decPos := s.decPos + 1#32 })
    ∧ (s.decBs = 1#4 → exec (.decChar d) s = .next { s with
      decBuf := (buf.extractLsb' 0 6).setWidth 12, decBs := 6#4, decPos := s.decPos + 1#32 })
    ∧ (s.decBs = 2#4 → exec (.decChar d) s = .next { s with
      decBuf := (buf.extractLsb' 0 7).setWidth 12, decBs := 7#4, decPos := s.decPos + 1#32 })
    ∧ (s.decBs = 3#4 → exec (.decChar d) s = .next { s with
      decBuf := 0#12, decBs := 0#4, decPos := s.decPos + 1#32, out := s.out ++ [.data (buf.extractLsb' 0 8)] })
    ∧ (s.decBs = 4#4 → exec (.decChar d) s = .next { s with
      decBuf := (buf.extractLsb' 0 1).setWidth 12, decBs := 1#4, decPos := s.decPos + 1#32
      out := s.out ++ [.data (buf.extractLsb' 1 8)] })
    ∧ (s.decBs = 5#4 → exec (.decChar d) s = .next { s with
      decBuf := (buf.extractLsb' 0 2).setWidth 12, decBs := 2#4, decPos := s.decPos + 1#32
      out := s.out ++ [.data (buf.extractLsb' 2 8)] })
    ∧ (s.decBs = 6#4 → exec (.decChar d) s = .next { s with
      decBuf := (buf.extractLsb' 0 3).setWidth 12, decBs := 3#4, decPos := s.decPos + 1#32
      out := s.out ++ [.data (buf.extractLsb' 3 8)] })
    ∧ (s.decBs = 7#4 → exec (.decChar d) s = .next { s with
      decBuf := (buf.extractLsb' 0 4).setWidth 12, decBs := 4#4, decPos := s.decPos + 1#32
      out := s.out ++ [.data (buf.extractLsb' 4 8)] })

/-- DEC_CHAR has no effect in mode DEC_ERR (R155), and is a SequenceError in modes IDLE and ENC (R145, R210). -/
def Obligations.DecCharIsIgnoredAfterAnError : Prop :=
  ∀ (s : State) (d : Byte),
    (s.mode = .decErr → exec (.decChar d) s = .next s)
    ∧ (s.mode = .idle ∨ s.mode = .enc →
      exec (.decChar d) s = .next (record .sequence 0#8 0#32 (0x90000000#32 ||| d.setWidth 32) s))

/-- R157: DEC_FINISH closes the frame with END(0) or END(1); held characters and leftover bits are dropped. -/
def Obligations.DecFinishClosesTheFrame : Prop :=
  (∀ s : State,
    (s.mode = .dec → exec .decFinish s = .next { s with
      mode := .idle, decBuf := 0#12, decBs := 0#4, decPos := 0#32, decHeld := false, decHchar := 0#8, decHpos := 0#32
      out := s.out ++ [.endFrame .ok] })
    ∧ (s.mode = .decErr → exec .decFinish s = .next { s with
      mode := .idle, decBuf := 0#12, decBs := 0#4, decPos := 0#32, decHeld := false, decHchar := 0#8, decHpos := 0#32
      out := s.out ++ [.endFrame .invalid] })
    ∧ (s.mode = .idle ∨ s.mode = .enc → exec .decFinish s = .next (record .sequence 0#8 0#32 0xA0000000#32 s)))
  ∧ encode .decFinish = 0xA0000000#32

/-! ## Control (43_control) and errors (60_exceptions) -/

/-- R170: NOP is the all-zero word and has no effect in any mode. -/
def Obligations.NopHasNoEffect : Prop :=
  (∀ s : State, exec .nop s = .next s) ∧ encode .nop = 0x00000000#32
  ∧ ∀ w : Word, w.extractLsb' 28 4 = 0#4 → w ≠ 0#32 → decode w = none

/-- R171: CLEAR closes an open frame with END(2), and clears the frame state and the error capture; ALPHA stays. -/
def Obligations.ClearAbortsAndClears : Prop :=
  (∀ s : State, exec .clear s = .next { s with
    mode := .idle, pad := false, encAcc := 0#12, encRs := 0#4, encCnt5 := 0#3
    decBuf := 0#12, decBs := 0#4, decPos := 0#32, decHeld := false, decHchar := 0#8, decHpos := 0#32
    errCode := .none, errOvf := false, errChar := 0#8, errPos := 0#32, errCmd := 0#32
    out := s.out ++ (if s.mode = .idle then [] else [.endFrame .aborted]) })
  ∧ encode .clear = 0x10000000#32

/-- R205: Record keeps the first error, and a later one only sets ERR_OVF; only CLEAR and reset clear what is captured. -/
def Obligations.RecordKeepsTheFirstError : Prop :=
  (∀ (code : ErrCode) (ch : Byte) (pos : BitVec 32) (cmd : Word) (s : State),
    (s.errCode = .none → record code ch pos cmd s = { s with errCode := code, errChar := ch, errPos := pos, errCmd := cmd })
    ∧ (s.errCode ≠ .none → record code ch pos cmd s = { s with errOvf := true }))
  ∧ (∀ s t : State, step s = .next t → s.errCode ≠ .none →
    (t.errCode = s.errCode ∧ t.errChar = s.errChar ∧ t.errPos = s.errPos ∧ t.errCmd = s.errCmd
      ∧ (s.errOvf = true → t.errOvf = true))
    ∨ (∃ rest, s.inbox = .reset :: rest)
    ∨ (∃ w later, s.cmdPort = w :: later ∧ decode w = some .clear ∧ t.cmdPort = later))

/-- R204 and R210: a command that the legality table does not allow in the mode records SEQUENCE with its own word and
has no other effect; one that it allows raises no SequenceError. -/
def Obligations.SequenceErrorExactlyOutsideLegalModes : Prop :=
  ∀ (i : Instr) (s : State),
    (legal i s.mode = false → exec i s = .next
      (if s.errCode = .none then { s with errCode := .sequence, errChar := 0#8, errPos := 0#32, errCmd := encode i }
       else { s with errOvf := true }))
    ∧ (legal i s.mode = true → s.errCode = .none → ∃ t, exec i s = .next t ∧ t.errCode ≠ .sequence)

/-- Errors are precise (R212): unless it is CLEAR, a word that changes the error capture does nothing but Record, or, when
a DEC_CHAR in mode DEC raises InvalidSymbol, Record and MODE <- DEC_ERR. -/
def Obligations.ErrorsChangeOnlyTheCapture : Prop :=
  ∀ (w : Word) (s t : State), performWord w s = .next t → decode w ≠ some .clear →
    SameCapture s t
    ∨ (∃ code, code ∈ [ErrCode.configMismatch, .sequence, .illegalCmd] ∧ t = record code 0#8 0#32 w s)
    ∨ ((∃ d, decode w = some (.decChar d)) ∧ s.mode = .dec
        ∧ ∃ ch pos, t = { record .invalidSymbol ch pos w s with mode := .decErr })

/-- R246: a command appends at most the table's number of items, and DEC_FINISH exactly one when it is legal. -/
def Obligations.ItemsPerCommandAreBounded : Prop :=
  ∀ (i : Instr) (s : State), FrameInv s →
    ∃ t items, exec i s = .next t ∧ t.out = s.out ++ items ∧ items.length ≤ maxItems i
      ∧ (i = .decFinish → legal i s.mode = true → items.length = 1)

/-- MODE changes only as R24 says. -/
def Obligations.ModeChangesOnlyByItsWriters : Prop :=
  ∀ (i : Instr) (s t : State), exec i s = .next t → t.mode ≠ s.mode →
    (s.mode = .idle ∧ t.mode = .enc ∧ ∃ p, i = .encStart p)
    ∨ (s.mode = .idle ∧ t.mode = .dec ∧ i = .decStart)
    ∨ (s.mode = .enc ∧ t.mode = .idle ∧ i = .encFinish)
    ∨ ((s.mode = .dec ∨ s.mode = .decErr) ∧ t.mode = .idle ∧ i = .decFinish)
    ∨ (s.mode = .dec ∧ t.mode = .decErr ∧ ∃ d, i = .decChar d)
    ∨ (t.mode = .idle ∧ i = .clear)

/-- ALPHA changes only by CFG_ALPHA and CFG_DEFAULT in mode IDLE, among the steps that are no reset (R25, R240). -/
def Obligations.AlphabetChangesOnlyInIdle : Prop :=
  ∀ (s t : State), step s = .next t → (∀ rest, s.inbox ≠ .reset :: rest) → t.alpha ≠ s.alpha →
    s.mode = .idle ∧ t.mode = .idle ∧ t.out = s.out
      ∧ ∃ w rest, s.cmdPort = w :: rest ∧ t.cmdPort = rest
        ∧ (decode w = some .cfgDefault ∨ ∃ idx d, decode w = some (.cfgAlpha idx d))

/-- What each family of commands leaves alone, besides the ports' outside ends, which every command leaves alone. -/
def Obligations.CommandsLeaveTheRestAlone : Prop :=
  ∀ (i : Instr) (s t : State), exec i s = .next t →
    SamePorts s t ∧ s.out <+: t.out
    ∧ (match i with
       | .nop => t = s
       | .clear => t.alpha = s.alpha
       | .cfgAlpha _ _ => SameEncoder s t ∧ SameDecoder s t ∧ t.mode = s.mode ∧ t.out = s.out
           ∧ (s.mode = .idle → SameCapture s t)
       | .cfgDefault => SameEncoder s t ∧ SameDecoder s t ∧ t.mode = s.mode ∧ t.out = s.out
           ∧ (s.mode = .idle → SameCapture s t)
       | .encStart _ => t.alpha = s.alpha ∧ SameDecoder s t ∧ t.out = s.out
           ∧ (s.mode = .idle → cfgValid s.alpha = true → SameCapture s t)
       | .encByte _ => t.alpha = s.alpha ∧ SameDecoder s t ∧ t.mode = s.mode ∧ t.pad = s.pad
           ∧ (s.mode = .enc → SameCapture s t)
       | .encFinish => t.alpha = s.alpha ∧ SameDecoder s t ∧ (s.mode = .enc → SameCapture s t)
       | .decStart => t.alpha = s.alpha ∧ SameEncoder s t ∧ t.out = s.out
           ∧ (s.mode = .idle → cfgValid s.alpha = true → SameCapture s t)
       | .decChar _ => t.alpha = s.alpha ∧ SameEncoder s t ∧ (t.mode = s.mode → legal i s.mode = true → SameCapture s t)
       | .decFinish => t.alpha = s.alpha ∧ SameEncoder s t ∧ (legal i s.mode = true → SameCapture s t))

/-! ## The machine -/

/-- A step at which it is the block's turn performs the word at the head of the command port: a command's `exec`, or the
record of an illegal word; the word leaves the port. If the items it emits do not fit in the output buffer the word stays
on the port and nothing is performed (R52, R59, R75). That an empty inbox is the block's turn is the model's choice (log
entry 1). -/
def Obligations.StepPerformsTheHeadWordOrHoldsIt : Prop :=
  ∀ (s : State) (rest : List HostAction) (w : Word) (later : List Word) (t : State),
    (s.inbox = .turn :: rest ∨ (s.inbox = [] ∧ rest = [])) → s.cmdPort = w :: later →
    (∀ i, decode w = some i → exec i { s with inbox := rest, cmdPort := later } = .next t →
      (t.out.length = s.out.length ∨ t.out.length - s.taken ≤ Config.outDepth → step s = .next t)
      ∧ (¬(t.out.length = s.out.length ∨ t.out.length - s.taken ≤ Config.outDepth) →
          step s = .next { s with inbox := rest }))
    ∧ (decode w = none → step s = .next (record .illegalCmd 0#8 0#32 w { s with inbox := rest, cmdPort := later }))

/-- When the sink has taken every item no command is held: an output buffer of at least 8 items has room for the items of
any one command (R241). -/
def Obligations.DrainedBufferNeverHolds : Prop :=
  ∀ (s : State) (rest : List HostAction) (w : Word) (later : List Word) (i : Instr),
    s.inbox = .turn :: rest → s.cmdPort = w :: later → s.taken = s.out.length → decode w = some i →
    ∃ t, exec i { s with inbox := rest, cmdPort := later } = .next t ∧ step s = .next t

/-- The block is never stuck: every step goes on, whatever the state (R213, R214), and an empty port leaves it as it is
(R223). -/
def Obligations.EveryStepGoesOn : Prop :=
  (∀ s : State, ∃ t, step s = .next t) ∧ ∀ s : State, s.inbox = [] → s.cmdPort = [] → step s = .next s

/-- R48: every step keeps the invariants of the frame registers. -/
def Obligations.StepKeepsFrameInv : Prop := ∀ s t : State, FrameInv s → step s = .next t → FrameInv t

/-- Every step keeps: an active frame has a valid alphabet (R108). -/
def Obligations.StepKeepsConfigInv : Prop := ∀ s t : State, ConfigInv s → step s = .next t → ConfigInv t

/-- Every step keeps: the captured character, position and word fit the captured error (R35, R200, R205). -/
def Obligations.StepKeepsCaptureInv : Prop :=
  ∀ s t : State, CaptureInv s → step s = .next t → CaptureInv t

/-- Every step keeps: the output buffer holds at most OUT_DEPTH items, and the sink has got the items of OUT in order,
none lost, repeated or changed (R58, R59). -/
def Obligations.StepKeepsOutputInv : Prop := ∀ s t : State, OutputInv s → step s = .next t → OutputInv t

/-- Every step keeps: a held character is of the trim set (R34, R150). -/
def Obligations.StepKeepsHeldInv : Prop := ∀ s t : State, HeldInv s → step s = .next t → HeldInv t

/-- The reset state meets every invariant. -/
def Obligations.ResetMeetsTheInvariants : Prop :=
  FrameInv State.reset ∧ ConfigInv State.reset ∧ CaptureInv State.reset ∧ OutputInv State.reset ∧ HeldInv State.reset

/-- OUT is only appended to, except by reset (R36). -/
def Obligations.OutOnlyGrowsBetweenResets : Prop :=
  ∀ s t : State, step s = .next t → (∀ rest, s.inbox ≠ .reset :: rest) → s.out <+: t.out

/-- Instances share nothing: a step of one leaves the others as they are, and steps of two commute (R220). -/
def Obligations.InstancesAreIndependent : Prop :=
  ∀ (p : Platform) (j k : Nat), j ≠ k →
    (stepInstance k p).instances[j]? = p.instances[j]?
    ∧ stepInstance j (stepInstance k p) = stepInstance k (stepInstance j p)

/-! ## Frames (44_frame_reference) -/

/-- R183: an encode frame appends what Encode_ref gives and END(0), and leaves the encoder cleared. -/
def Obligations.EncodeFrameEqualsEncodeRef : Prop :=
  ∀ (s : State) (data : List Byte) (p : Bool), s.mode = .idle → cfgValid s.alpha = true →
    execAll (encodeFrame data p) s = .next { s with
      mode := .idle, pad := false, encAcc := 0#12, encRs := 0#4, encCnt5 := 0#3
      out := s.out ++ (encodeRef s.alpha data p).map .data ++ [.endFrame .ok] }

/-- R184: a decode frame appends the bytes of Decode_ref and END(0); or, where Decode_ref answers InvalidSymbol(c, i), the
bytes of the first i characters and END(1), with Record(1, c, i mod 2^32, w) for the DEC_CHAR word w that raised it: that
of the first character from index i on that is not in the trim set. -/
def Obligations.DecodeFrameEqualsDecodeRef : Prop :=
  ∀ (s : State) (text : List Byte), s.mode = .idle → cfgValid s.alpha = true →
    (∀ bytes, decodeRef s.alpha text = .ok bytes →
      execAll (decodeFrame text) s = .next { s with
        mode := .idle, decBuf := 0#12, decBs := 0#4, decPos := 0#32, decHeld := false, decHchar := 0#8, decHpos := 0#32
        out := s.out ++ bytes.map .data ++ [.endFrame .ok] })
    ∧ (∀ c i, decodeRef s.alpha text = .error (c, i) →
      ∃ bytes d, decodeRef s.alpha (text.take i) = .ok bytes ∧ (text.drop i).find? (fun x => !inTrim x) = some d
        ∧ execAll (decodeFrame text) s = .next { record .invalidSymbol c (BitVec.ofNat 32 i) (encode (.decChar d)) s with
          mode := .idle, decBuf := 0#12, decBs := 0#4, decPos := 0#32, decHeld := false, decHchar := 0#8, decHpos := 0#32
          out := s.out ++ bytes.map .data ++ [.endFrame .invalid] })

/-- R185: the round trip under every valid alphabet, of the reference functions and of an encode frame followed by a decode
frame of its data. -/
def Obligations.DecodingInvertsEncoding : Prop :=
  (∀ (A : Alphabet) (b : List Byte) (p : Bool), cfgValid A = true → decodeRef A (encodeRef A b p) = .ok b)
  ∧ ∀ (s : State) (b : List Byte) (p : Bool), s.mode = .idle → cfgValid s.alpha = true →
    ∃ t, execAll (encodeFrame b p ++ decodeFrame (encodeRef s.alpha b p)) s = .next t
      ∧ t.out = s.out ++ ((encodeRef s.alpha b p).map .data ++ [.endFrame .ok]) ++ (b.map .data ++ [.endFrame .ok])

/-- R186 and R187: the length law and the padding law. -/
def Obligations.EncodedLengthAndPadding : Prop :=
  ∀ (A : Alphabet) (b : List Byte),
    (encodeRef A b false).length = (b.length * 8 + 4) / 5
    ∧ (encodeRef A b true).length % 8 = 0
    ∧ ∃ n, encodeRef A b true = encodeRef A b false ++ List.replicate n 0x3D#8
      ∧ n = (match b.length % 5 with | 0 => 0 | 1 => 6 | 2 => 4 | 3 => 3 | _ => 1)

/-- R188: the lower-case image of an encoding decodes to the same bytes under every valid alphabet; the upper-case image
does where no entry is a lower-case letter, and where the encoding holds such a letter it decodes to InvalidSymbol. -/
def Obligations.DecodeRefFoldsLowerCase : Prop :=
  ∀ (A : Alphabet) (b : List Byte) (p : Bool), cfgValid A = true →
    decodeRef A ((encodeRef A b p).map lc) = .ok b
    ∧ ((∀ i, ¬(0x61#8 ≤ entry A i ∧ entry A i ≤ 0x7A#8)) → decodeRef A ((encodeRef A b p).map uc) = .ok b)
    ∧ ((∃ c ∈ encodeRef A b p, 0x61#8 ≤ c ∧ c ≤ 0x7A#8) → ∃ e, decodeRef A ((encodeRef A b p).map uc) = .error e)

/-- R190: trailing trim-set bytes change nothing. -/
def Obligations.TrailingTrimBytesAreIgnored : Prop :=
  ∀ (A : Alphabet) (s u : List Byte), (∀ c ∈ u, inTrim c = true) → decodeRef A (s ++ u) = decodeRef A s

/-- R191: an unmapped or trim-set byte in the trimmed string is rejected, at the first byte that does not map. -/
def Obligations.DecodeRefRejectsInvalidSymbols : Prop :=
  (∀ (A : Alphabet) (s : List Byte), cfgValid A = true →
    (∃ c ∈ rtrim s, inTrim c = true ∨ symbolMap A c = none) →
    ∃ c i, decodeRef A s = .error (c, i) ∧ (rtrim s)[i]? = some c ∧ symbolMap A c = none
      ∧ ∀ c' ∈ (rtrim s).take i, symbolMap A c' ≠ none)
  ∧ decodeRef Config.defaultAlphabet [0x40#8, 0x40#8, 0x40#8, 0x40#8] = .error (0x40#8, 0)

/-- The empty input (R189): the reference functions answer nothing, and an empty frame of either kind appends only
END(0). -/
def Obligations.EmptyInputGivesEmptyOutput : Prop :=
  (∀ (A : Alphabet) (p : Bool), encodeRef A [] p = [] ∧ decodeRef A [] = .ok [])
  ∧ ∀ (s : State) (p : Bool), s.mode = .idle → cfgValid s.alpha = true →
    (∃ t, execAll (encodeFrame [] p) s = .next t ∧ t.out = s.out ++ [.endFrame .ok])
    ∧ ∃ t, execAll (decodeFrame []) s = .next t ∧ t.out = s.out ++ [.endFrame .ok]

/-- Frames are independent of what came before (R192): from two states in IDLE with the same alphabet, the same commands
append the same items, whatever the error captures, the earlier output and the leftover registers are. -/
def Obligations.FramesDependOnlyOnAlphabetAndCommands : Prop :=
  ∀ (cs : List Instr) (s1 s2 : State), s1.mode = .idle → s2.mode = .idle → s1.alpha = s2.alpha →
    ∃ t1 t2 items, execAll cs s1 = .next t1 ∧ execAll cs s2 = .next t2
      ∧ t1.out = s1.out ++ items ∧ t2.out = s2.out ++ items ∧ t1.mode = t2.mode ∧ t1.alpha = t2.alpha
end

