-- ==== Sys2Proof/Laws/Encoding.lean ====
section
/-! SUPPORT. The fields of a word in format CMD32 (30_encoding R70): what `cmd32` puts in, `field…` takes out. -/

namespace Sys2Proof

variable (op : BitVec 4) (p : Bool) (idx : SymVal) (d : Byte)

/-- Bit `k` of a command word, field by field (R70). -/
theorem cmd32_getLsbD (k : Nat) :
    (cmd32 op p idx d).getLsbD k =
      if k < 8 then d.getLsbD k else if k < 13 then idx.getLsbD (k - 8) else if k < 16 then false
      else if k = 16 then p else if k < 28 then false else op.getLsbD (k - 28) := by
  unfold cmd32
  rw [BitVec.getLsbD_append, BitVec.getLsbD_append, BitVec.getLsbD_append, BitVec.getLsbD_append,
    BitVec.getLsbD_append, show k - 8 - 5 = k - 13 by omega, show k - 13 - 3 = k - 16 by omega,
    show k - 16 - 1 = k - 17 by omega, show k - 17 - 11 = k - 28 by omega]
  by_cases h1 : k < 8
  · simp [h1]
  by_cases h2 : k - 8 < 5
  · simp [h1, h2, show k < 13 by omega]
  by_cases h3 : k - 13 < 3
  · simp [h1, h2, h3, show ¬k < 13 by omega, show k < 16 by omega]
  by_cases h4 : k - 16 < 1
  · simp [show k = 16 by omega]
  by_cases h5 : k - 17 < 11
  · simp [h1, h2, h3, h4, h5, show ¬k < 13 by omega, show ¬k < 16 by omega, show ¬k = 16 by omega,
      show k < 28 by omega]
  · simp [h1, h2, h3, h4, h5, show ¬k < 13 by omega, show ¬k < 16 by omega, show ¬k = 16 by omega,
      show ¬k < 28 by omega]

theorem fieldD_cmd32 : fieldD (cmd32 op p idx d) = d := by
  apply BitVec.eq_of_getLsbD_eq
  intro k hk
  simp only [fieldD, BitVec.getLsbD_extractLsb', cmd32_getLsbD]
  simp [hk]

theorem fieldIdx_cmd32 : fieldIdx (cmd32 op p idx d) = idx := by
  apply BitVec.eq_of_getLsbD_eq
  intro k hk
  simp only [fieldIdx, BitVec.getLsbD_extractLsb', cmd32_getLsbD]
  simp [hk, show ¬8 + k < 8 by omega, show 8 + k < 13 by omega]

theorem fieldP_cmd32 : fieldP (cmd32 op p idx d) = p := by
  unfold fieldP
  rw [cmd32_getLsbD]
  simp

theorem fieldOp_cmd32 : fieldOp (cmd32 op p idx d) = op := by
  apply BitVec.eq_of_getLsbD_eq
  intro k hk
  simp only [fieldOp, BitVec.getLsbD_extractLsb', cmd32_getLsbD]
  simp [hk, show ¬28 + k < 8 by omega, show ¬28 + k < 13 by omega, show ¬28 + k < 16 by omega,
    show ¬28 + k = 16 by omega]

/-- A word of another operation than a row's misses that row, if the row's mask covers OP (R74). -/
theorem and_ne_of_fieldOp_ne {w m k : Word} (hm : fieldOp m = 0xF#4) (hk : fieldOp k ≠ fieldOp w) : w &&& m ≠ k := by
  rintro rfl
  apply hk
  apply BitVec.eq_of_getLsbD_eq
  intro b hb
  have h := congrArg (fun x => x.getLsbD b) hm
  simp only [fieldOp, BitVec.getLsbD_extractLsb', BitVec.getLsbD_and, hb, decide_true, Bool.true_and] at h ⊢
  rw [h]
  interval_cases b <;> simp

end Sys2Proof
end

