-- ==== Sys2Proof/Laws/State.lean ====
section
/-! SUPPORT. One lemma per field and update of the state: what the update leaves in the field. `clearEnc`, `clearDec`
and the raises are rewritten into these updates by the lemmas at the end. -/

namespace Sys2Proof.Machine

section SetModeFields
variable (m : Mode) (s : State)
@[simp] theorem setMode_mode : (setMode m s).mode = m := rfl
@[simp] theorem setMode_alpha : (setMode m s).alpha = s.alpha := rfl
@[simp] theorem setMode_pad : (setMode m s).pad = s.pad := rfl
@[simp] theorem setMode_encAcc : (setMode m s).encAcc = s.encAcc := rfl
@[simp] theorem setMode_encRs : (setMode m s).encRs = s.encRs := rfl
@[simp] theorem setMode_encCnt5 : (setMode m s).encCnt5 = s.encCnt5 := rfl
@[simp] theorem setMode_decBuf : (setMode m s).decBuf = s.decBuf := rfl
@[simp] theorem setMode_decBs : (setMode m s).decBs = s.decBs := rfl
@[simp] theorem setMode_decPos : (setMode m s).decPos = s.decPos := rfl
@[simp] theorem setMode_decHeld : (setMode m s).decHeld = s.decHeld := rfl
@[simp] theorem setMode_decHchar : (setMode m s).decHchar = s.decHchar := rfl
@[simp] theorem setMode_decHpos : (setMode m s).decHpos = s.decHpos := rfl
@[simp] theorem setMode_errCode : (setMode m s).errCode = s.errCode := rfl
@[simp] theorem setMode_errOvf : (setMode m s).errOvf = s.errOvf := rfl
@[simp] theorem setMode_errChar : (setMode m s).errChar = s.errChar := rfl
@[simp] theorem setMode_errPos : (setMode m s).errPos = s.errPos := rfl
@[simp] theorem setMode_errCmd : (setMode m s).errCmd = s.errCmd := rfl
@[simp] theorem setMode_out : (setMode m s).out = s.out := rfl
@[simp] theorem setMode_taken : (setMode m s).taken = s.taken := rfl
@[simp] theorem setMode_sink : (setMode m s).sink = s.sink := rfl
@[simp] theorem setMode_cmdPort : (setMode m s).cmdPort = s.cmdPort := rfl
@[simp] theorem setMode_inbox : (setMode m s).inbox = s.inbox := rfl
@[simp] theorem setMode_reads : (setMode m s).reads = s.reads := rfl
end SetModeFields

section SetPadFields
variable (p : Bool) (s : State)
@[simp] theorem setPad_mode : (setPad p s).mode = s.mode := rfl
@[simp] theorem setPad_alpha : (setPad p s).alpha = s.alpha := rfl
@[simp] theorem setPad_pad : (setPad p s).pad = p := rfl
@[simp] theorem setPad_encAcc : (setPad p s).encAcc = s.encAcc := rfl
@[simp] theorem setPad_encRs : (setPad p s).encRs = s.encRs := rfl
@[simp] theorem setPad_encCnt5 : (setPad p s).encCnt5 = s.encCnt5 := rfl
@[simp] theorem setPad_decBuf : (setPad p s).decBuf = s.decBuf := rfl
@[simp] theorem setPad_decBs : (setPad p s).decBs = s.decBs := rfl
@[simp] theorem setPad_decPos : (setPad p s).decPos = s.decPos := rfl
@[simp] theorem setPad_decHeld : (setPad p s).decHeld = s.decHeld := rfl
@[simp] theorem setPad_decHchar : (setPad p s).decHchar = s.decHchar := rfl
@[simp] theorem setPad_decHpos : (setPad p s).decHpos = s.decHpos := rfl
@[simp] theorem setPad_errCode : (setPad p s).errCode = s.errCode := rfl
@[simp] theorem setPad_errOvf : (setPad p s).errOvf = s.errOvf := rfl
@[simp] theorem setPad_errChar : (setPad p s).errChar = s.errChar := rfl
@[simp] theorem setPad_errPos : (setPad p s).errPos = s.errPos := rfl
@[simp] theorem setPad_errCmd : (setPad p s).errCmd = s.errCmd := rfl
@[simp] theorem setPad_out : (setPad p s).out = s.out := rfl
@[simp] theorem setPad_taken : (setPad p s).taken = s.taken := rfl
@[simp] theorem setPad_sink : (setPad p s).sink = s.sink := rfl
@[simp] theorem setPad_cmdPort : (setPad p s).cmdPort = s.cmdPort := rfl
@[simp] theorem setPad_inbox : (setPad p s).inbox = s.inbox := rfl
@[simp] theorem setPad_reads : (setPad p s).reads = s.reads := rfl
end SetPadFields

section SetAlphaFields
variable (A : Alphabet) (s : State)
@[simp] theorem setAlpha_mode : (setAlpha A s).mode = s.mode := rfl
@[simp] theorem setAlpha_alpha : (setAlpha A s).alpha = A := rfl
@[simp] theorem setAlpha_pad : (setAlpha A s).pad = s.pad := rfl
@[simp] theorem setAlpha_encAcc : (setAlpha A s).encAcc = s.encAcc := rfl
@[simp] theorem setAlpha_encRs : (setAlpha A s).encRs = s.encRs := rfl
@[simp] theorem setAlpha_encCnt5 : (setAlpha A s).encCnt5 = s.encCnt5 := rfl
@[simp] theorem setAlpha_decBuf : (setAlpha A s).decBuf = s.decBuf := rfl
@[simp] theorem setAlpha_decBs : (setAlpha A s).decBs = s.decBs := rfl
@[simp] theorem setAlpha_decPos : (setAlpha A s).decPos = s.decPos := rfl
@[simp] theorem setAlpha_decHeld : (setAlpha A s).decHeld = s.decHeld := rfl
@[simp] theorem setAlpha_decHchar : (setAlpha A s).decHchar = s.decHchar := rfl
@[simp] theorem setAlpha_decHpos : (setAlpha A s).decHpos = s.decHpos := rfl
@[simp] theorem setAlpha_errCode : (setAlpha A s).errCode = s.errCode := rfl
@[simp] theorem setAlpha_errOvf : (setAlpha A s).errOvf = s.errOvf := rfl
@[simp] theorem setAlpha_errChar : (setAlpha A s).errChar = s.errChar := rfl
@[simp] theorem setAlpha_errPos : (setAlpha A s).errPos = s.errPos := rfl
@[simp] theorem setAlpha_errCmd : (setAlpha A s).errCmd = s.errCmd := rfl
@[simp] theorem setAlpha_out : (setAlpha A s).out = s.out := rfl
@[simp] theorem setAlpha_taken : (setAlpha A s).taken = s.taken := rfl
@[simp] theorem setAlpha_sink : (setAlpha A s).sink = s.sink := rfl
@[simp] theorem setAlpha_cmdPort : (setAlpha A s).cmdPort = s.cmdPort := rfl
@[simp] theorem setAlpha_inbox : (setAlpha A s).inbox = s.inbox := rfl
@[simp] theorem setAlpha_reads : (setAlpha A s).reads = s.reads := rfl
end SetAlphaFields

section SetEncFields
variable (acc : BitVec 12) (rs : BitVec 4) (cnt : BitVec 3) (s : State)
@[simp] theorem setEnc_mode : (setEnc acc rs cnt s).mode = s.mode := rfl
@[simp] theorem setEnc_alpha : (setEnc acc rs cnt s).alpha = s.alpha := rfl
@[simp] theorem setEnc_pad : (setEnc acc rs cnt s).pad = s.pad := rfl
@[simp] theorem setEnc_encAcc : (setEnc acc rs cnt s).encAcc = acc := rfl
@[simp] theorem setEnc_encRs : (setEnc acc rs cnt s).encRs = rs := rfl
@[simp] theorem setEnc_encCnt5 : (setEnc acc rs cnt s).encCnt5 = cnt := rfl
@[simp] theorem setEnc_decBuf : (setEnc acc rs cnt s).decBuf = s.decBuf := rfl
@[simp] theorem setEnc_decBs : (setEnc acc rs cnt s).decBs = s.decBs := rfl
@[simp] theorem setEnc_decPos : (setEnc acc rs cnt s).decPos = s.decPos := rfl
@[simp] theorem setEnc_decHeld : (setEnc acc rs cnt s).decHeld = s.decHeld := rfl
@[simp] theorem setEnc_decHchar : (setEnc acc rs cnt s).decHchar = s.decHchar := rfl
@[simp] theorem setEnc_decHpos : (setEnc acc rs cnt s).decHpos = s.decHpos := rfl
@[simp] theorem setEnc_errCode : (setEnc acc rs cnt s).errCode = s.errCode := rfl
@[simp] theorem setEnc_errOvf : (setEnc acc rs cnt s).errOvf = s.errOvf := rfl
@[simp] theorem setEnc_errChar : (setEnc acc rs cnt s).errChar = s.errChar := rfl
@[simp] theorem setEnc_errPos : (setEnc acc rs cnt s).errPos = s.errPos := rfl
@[simp] theorem setEnc_errCmd : (setEnc acc rs cnt s).errCmd = s.errCmd := rfl
@[simp] theorem setEnc_out : (setEnc acc rs cnt s).out = s.out := rfl
@[simp] theorem setEnc_taken : (setEnc acc rs cnt s).taken = s.taken := rfl
@[simp] theorem setEnc_sink : (setEnc acc rs cnt s).sink = s.sink := rfl
@[simp] theorem setEnc_cmdPort : (setEnc acc rs cnt s).cmdPort = s.cmdPort := rfl
@[simp] theorem setEnc_inbox : (setEnc acc rs cnt s).inbox = s.inbox := rfl
@[simp] theorem setEnc_reads : (setEnc acc rs cnt s).reads = s.reads := rfl
end SetEncFields

section SetDecBitsFields
variable (buf : BitVec 12) (bs : BitVec 4) (s : State)
@[simp] theorem setDecBits_mode : (setDecBits buf bs s).mode = s.mode := rfl
@[simp] theorem setDecBits_alpha : (setDecBits buf bs s).alpha = s.alpha := rfl
@[simp] theorem setDecBits_pad : (setDecBits buf bs s).pad = s.pad := rfl
@[simp] theorem setDecBits_encAcc : (setDecBits buf bs s).encAcc = s.encAcc := rfl
@[simp] theorem setDecBits_encRs : (setDecBits buf bs s).encRs = s.encRs := rfl
@[simp] theorem setDecBits_encCnt5 : (setDecBits buf bs s).encCnt5 = s.encCnt5 := rfl
@[simp] theorem setDecBits_decBuf : (setDecBits buf bs s).decBuf = buf := rfl
@[simp] theorem setDecBits_decBs : (setDecBits buf bs s).decBs = bs := rfl
@[simp] theorem setDecBits_decPos : (setDecBits buf bs s).decPos = s.decPos := rfl
@[simp] theorem setDecBits_decHeld : (setDecBits buf bs s).decHeld = s.decHeld := rfl
@[simp] theorem setDecBits_decHchar : (setDecBits buf bs s).decHchar = s.decHchar := rfl
@[simp] theorem setDecBits_decHpos : (setDecBits buf bs s).decHpos = s.decHpos := rfl
@[simp] theorem setDecBits_errCode : (setDecBits buf bs s).errCode = s.errCode := rfl
@[simp] theorem setDecBits_errOvf : (setDecBits buf bs s).errOvf = s.errOvf := rfl
@[simp] theorem setDecBits_errChar : (setDecBits buf bs s).errChar = s.errChar := rfl
@[simp] theorem setDecBits_errPos : (setDecBits buf bs s).errPos = s.errPos := rfl
@[simp] theorem setDecBits_errCmd : (setDecBits buf bs s).errCmd = s.errCmd := rfl
@[simp] theorem setDecBits_out : (setDecBits buf bs s).out = s.out := rfl
@[simp] theorem setDecBits_taken : (setDecBits buf bs s).taken = s.taken := rfl
@[simp] theorem setDecBits_sink : (setDecBits buf bs s).sink = s.sink := rfl
@[simp] theorem setDecBits_cmdPort : (setDecBits buf bs s).cmdPort = s.cmdPort := rfl
@[simp] theorem setDecBits_inbox : (setDecBits buf bs s).inbox = s.inbox := rfl
@[simp] theorem setDecBits_reads : (setDecBits buf bs s).reads = s.reads := rfl
end SetDecBitsFields

section SetDecPosFields
variable (p : BitVec 32) (s : State)
@[simp] theorem setDecPos_mode : (setDecPos p s).mode = s.mode := rfl
@[simp] theorem setDecPos_alpha : (setDecPos p s).alpha = s.alpha := rfl
@[simp] theorem setDecPos_pad : (setDecPos p s).pad = s.pad := rfl
@[simp] theorem setDecPos_encAcc : (setDecPos p s).encAcc = s.encAcc := rfl
@[simp] theorem setDecPos_encRs : (setDecPos p s).encRs = s.encRs := rfl
@[simp] theorem setDecPos_encCnt5 : (setDecPos p s).encCnt5 = s.encCnt5 := rfl
@[simp] theorem setDecPos_decBuf : (setDecPos p s).decBuf = s.decBuf := rfl
@[simp] theorem setDecPos_decBs : (setDecPos p s).decBs = s.decBs := rfl
@[simp] theorem setDecPos_decPos : (setDecPos p s).decPos = p := rfl
@[simp] theorem setDecPos_decHeld : (setDecPos p s).decHeld = s.decHeld := rfl
@[simp] theorem setDecPos_decHchar : (setDecPos p s).decHchar = s.decHchar := rfl
@[simp] theorem setDecPos_decHpos : (setDecPos p s).decHpos = s.decHpos := rfl
@[simp] theorem setDecPos_errCode : (setDecPos p s).errCode = s.errCode := rfl
@[simp] theorem setDecPos_errOvf : (setDecPos p s).errOvf = s.errOvf := rfl
@[simp] theorem setDecPos_errChar : (setDecPos p s).errChar = s.errChar := rfl
@[simp] theorem setDecPos_errPos : (setDecPos p s).errPos = s.errPos := rfl
@[simp] theorem setDecPos_errCmd : (setDecPos p s).errCmd = s.errCmd := rfl
@[simp] theorem setDecPos_out : (setDecPos p s).out = s.out := rfl
@[simp] theorem setDecPos_taken : (setDecPos p s).taken = s.taken := rfl
@[simp] theorem setDecPos_sink : (setDecPos p s).sink = s.sink := rfl
@[simp] theorem setDecPos_cmdPort : (setDecPos p s).cmdPort = s.cmdPort := rfl
@[simp] theorem setDecPos_inbox : (setDecPos p s).inbox = s.inbox := rfl
@[simp] theorem setDecPos_reads : (setDecPos p s).reads = s.reads := rfl
end SetDecPosFields

section SetHeldFields
variable (h : Bool) (c : Byte) (p : BitVec 32) (s : State)
@[simp] theorem setHeld_mode : (setHeld h c p s).mode = s.mode := rfl
@[simp] theorem setHeld_alpha : (setHeld h c p s).alpha = s.alpha := rfl
@[simp] theorem setHeld_pad : (setHeld h c p s).pad = s.pad := rfl
@[simp] theorem setHeld_encAcc : (setHeld h c p s).encAcc = s.encAcc := rfl
@[simp] theorem setHeld_encRs : (setHeld h c p s).encRs = s.encRs := rfl
@[simp] theorem setHeld_encCnt5 : (setHeld h c p s).encCnt5 = s.encCnt5 := rfl
@[simp] theorem setHeld_decBuf : (setHeld h c p s).decBuf = s.decBuf := rfl
@[simp] theorem setHeld_decBs : (setHeld h c p s).decBs = s.decBs := rfl
@[simp] theorem setHeld_decPos : (setHeld h c p s).decPos = s.decPos := rfl
@[simp] theorem setHeld_decHeld : (setHeld h c p s).decHeld = h := rfl
@[simp] theorem setHeld_decHchar : (setHeld h c p s).decHchar = c := rfl
@[simp] theorem setHeld_decHpos : (setHeld h c p s).decHpos = p := rfl
@[simp] theorem setHeld_errCode : (setHeld h c p s).errCode = s.errCode := rfl
@[simp] theorem setHeld_errOvf : (setHeld h c p s).errOvf = s.errOvf := rfl
@[simp] theorem setHeld_errChar : (setHeld h c p s).errChar = s.errChar := rfl
@[simp] theorem setHeld_errPos : (setHeld h c p s).errPos = s.errPos := rfl
@[simp] theorem setHeld_errCmd : (setHeld h c p s).errCmd = s.errCmd := rfl
@[simp] theorem setHeld_out : (setHeld h c p s).out = s.out := rfl
@[simp] theorem setHeld_taken : (setHeld h c p s).taken = s.taken := rfl
@[simp] theorem setHeld_sink : (setHeld h c p s).sink = s.sink := rfl
@[simp] theorem setHeld_cmdPort : (setHeld h c p s).cmdPort = s.cmdPort := rfl
@[simp] theorem setHeld_inbox : (setHeld h c p s).inbox = s.inbox := rfl
@[simp] theorem setHeld_reads : (setHeld h c p s).reads = s.reads := rfl
end SetHeldFields

section EmitFields
variable (items : List OutItem) (s : State)
@[simp] theorem emit_mode : (emit items s).mode = s.mode := rfl
@[simp] theorem emit_alpha : (emit items s).alpha = s.alpha := rfl
@[simp] theorem emit_pad : (emit items s).pad = s.pad := rfl
@[simp] theorem emit_encAcc : (emit items s).encAcc = s.encAcc := rfl
@[simp] theorem emit_encRs : (emit items s).encRs = s.encRs := rfl
@[simp] theorem emit_encCnt5 : (emit items s).encCnt5 = s.encCnt5 := rfl
@[simp] theorem emit_decBuf : (emit items s).decBuf = s.decBuf := rfl
@[simp] theorem emit_decBs : (emit items s).decBs = s.decBs := rfl
@[simp] theorem emit_decPos : (emit items s).decPos = s.decPos := rfl
@[simp] theorem emit_decHeld : (emit items s).decHeld = s.decHeld := rfl
@[simp] theorem emit_decHchar : (emit items s).decHchar = s.decHchar := rfl
@[simp] theorem emit_decHpos : (emit items s).decHpos = s.decHpos := rfl
@[simp] theorem emit_errCode : (emit items s).errCode = s.errCode := rfl
@[simp] theorem emit_errOvf : (emit items s).errOvf = s.errOvf := rfl
@[simp] theorem emit_errChar : (emit items s).errChar = s.errChar := rfl
@[simp] theorem emit_errPos : (emit items s).errPos = s.errPos := rfl
@[simp] theorem emit_errCmd : (emit items s).errCmd = s.errCmd := rfl
@[simp] theorem emit_out : (emit items s).out = s.out ++ items := rfl
@[simp] theorem emit_taken : (emit items s).taken = s.taken := rfl
@[simp] theorem emit_sink : (emit items s).sink = s.sink := rfl
@[simp] theorem emit_cmdPort : (emit items s).cmdPort = s.cmdPort := rfl
@[simp] theorem emit_inbox : (emit items s).inbox = s.inbox := rfl
@[simp] theorem emit_reads : (emit items s).reads = s.reads := rfl
end EmitFields

section ClearCaptureFields
variable (s : State)
@[simp] theorem clearCapture_mode : (clearCapture s).mode = s.mode := rfl
@[simp] theorem clearCapture_alpha : (clearCapture s).alpha = s.alpha := rfl
@[simp] theorem clearCapture_pad : (clearCapture s).pad = s.pad := rfl
@[simp] theorem clearCapture_encAcc : (clearCapture s).encAcc = s.encAcc := rfl
@[simp] theorem clearCapture_encRs : (clearCapture s).encRs = s.encRs := rfl
@[simp] theorem clearCapture_encCnt5 : (clearCapture s).encCnt5 = s.encCnt5 := rfl
@[simp] theorem clearCapture_decBuf : (clearCapture s).decBuf = s.decBuf := rfl
@[simp] theorem clearCapture_decBs : (clearCapture s).decBs = s.decBs := rfl
@[simp] theorem clearCapture_decPos : (clearCapture s).decPos = s.decPos := rfl
@[simp] theorem clearCapture_decHeld : (clearCapture s).decHeld = s.decHeld := rfl
@[simp] theorem clearCapture_decHchar : (clearCapture s).decHchar = s.decHchar := rfl
@[simp] theorem clearCapture_decHpos : (clearCapture s).decHpos = s.decHpos := rfl
@[simp] theorem clearCapture_errCode : (clearCapture s).errCode = .none := rfl
@[simp] theorem clearCapture_errOvf : (clearCapture s).errOvf = false := rfl
@[simp] theorem clearCapture_errChar : (clearCapture s).errChar = 0#8 := rfl
@[simp] theorem clearCapture_errPos : (clearCapture s).errPos = 0#32 := rfl
@[simp] theorem clearCapture_errCmd : (clearCapture s).errCmd = 0#32 := rfl
@[simp] theorem clearCapture_out : (clearCapture s).out = s.out := rfl
@[simp] theorem clearCapture_taken : (clearCapture s).taken = s.taken := rfl
@[simp] theorem clearCapture_sink : (clearCapture s).sink = s.sink := rfl
@[simp] theorem clearCapture_cmdPort : (clearCapture s).cmdPort = s.cmdPort := rfl
@[simp] theorem clearCapture_inbox : (clearCapture s).inbox = s.inbox := rfl
@[simp] theorem clearCapture_reads : (clearCapture s).reads = s.reads := rfl
end ClearCaptureFields

section RecordFields
variable (code : ErrCode) (ch : Byte) (pos : BitVec 32) (cmd : Word) (s : State)
@[simp] theorem record_mode : (record code ch pos cmd s).mode = s.mode := by unfold record; split <;> rfl
@[simp] theorem record_alpha : (record code ch pos cmd s).alpha = s.alpha := by unfold record; split <;> rfl
@[simp] theorem record_pad : (record code ch pos cmd s).pad = s.pad := by unfold record; split <;> rfl
@[simp] theorem record_encAcc : (record code ch pos cmd s).encAcc = s.encAcc := by unfold record; split <;> rfl
@[simp] theorem record_encRs : (record code ch pos cmd s).encRs = s.encRs := by unfold record; split <;> rfl
@[simp] theorem record_encCnt5 : (record code ch pos cmd s).encCnt5 = s.encCnt5 := by unfold record; split <;> rfl
@[simp] theorem record_decBuf : (record code ch pos cmd s).decBuf = s.decBuf := by unfold record; split <;> rfl
@[simp] theorem record_decBs : (record code ch pos cmd s).decBs = s.decBs := by unfold record; split <;> rfl
@[simp] theorem record_decPos : (record code ch pos cmd s).decPos = s.decPos := by unfold record; split <;> rfl
@[simp] theorem record_decHeld : (record code ch pos cmd s).decHeld = s.decHeld := by unfold record; split <;> rfl
@[simp] theorem record_decHchar : (record code ch pos cmd s).decHchar = s.decHchar := by unfold record; split <;> rfl
@[simp] theorem record_decHpos : (record code ch pos cmd s).decHpos = s.decHpos := by unfold record; split <;> rfl
@[simp] theorem record_errCode : (record code ch pos cmd s).errCode = if s.errCode = .none then code else s.errCode := by
  unfold record; split <;> rfl
@[simp] theorem record_errOvf : (record code ch pos cmd s).errOvf = if s.errCode = .none then s.errOvf else true := by
  unfold record; split <;> rfl
@[simp] theorem record_errChar : (record code ch pos cmd s).errChar = if s.errCode = .none then ch else s.errChar := by
  unfold record; split <;> rfl
@[simp] theorem record_errPos : (record code ch pos cmd s).errPos = if s.errCode = .none then pos else s.errPos := by
  unfold record; split <;> rfl
@[simp] theorem record_errCmd : (record code ch pos cmd s).errCmd = if s.errCode = .none then cmd else s.errCmd := by
  unfold record; split <;> rfl
@[simp] theorem record_out : (record code ch pos cmd s).out = s.out := by unfold record; split <;> rfl
@[simp] theorem record_taken : (record code ch pos cmd s).taken = s.taken := by unfold record; split <;> rfl
@[simp] theorem record_sink : (record code ch pos cmd s).sink = s.sink := by unfold record; split <;> rfl
@[simp] theorem record_cmdPort : (record code ch pos cmd s).cmdPort = s.cmdPort := by unfold record; split <;> rfl
@[simp] theorem record_inbox : (record code ch pos cmd s).inbox = s.inbox := by unfold record; split <;> rfl
@[simp] theorem record_reads : (record code ch pos cmd s).reads = s.reads := by unfold record; split <;> rfl
end RecordFields

/-- `clearEnc` is one update of the encoder's registers. -/
@[simp] theorem clearEnc_eq (s : State) : clearEnc s = setEnc 0#12 0#4 0#3 s := rfl

/-- `clearDec` is three updates of the decoder's registers. -/
@[simp] theorem clearDec_eq (s : State) :
    clearDec s = setHeld false 0#8 0#32 (setDecPos 0#32 (setDecBits 0#12 0#4 s)) := rfl

@[simp] theorem raiseSequence_eq (cmd : Word) (s : State) :
    raiseSequence cmd s = record .sequence 0#8 0#32 cmd s := rfl

@[simp] theorem raiseConfigMismatch_eq (cmd : Word) (s : State) :
    raiseConfigMismatch cmd s = record .configMismatch 0#8 0#32 cmd s := rfl

@[simp] theorem raiseIllegal_eq (cmd : Word) (s : State) :
    raiseIllegal cmd s = record .illegalCmd 0#8 0#32 cmd s := rfl

@[simp] theorem raiseInvalidSymbol_eq (ch : Byte) (pos : BitVec 32) (cmd : Word) (s : State) :
    raiseInvalidSymbol ch pos cmd s = setMode .decErr (record .invalidSymbol ch pos cmd s) := rfl

end Sys2Proof.Machine
end

