-- ==== Sys2Proof/Laws/Ops.lean ====
section
/-! SUPPORT. One lemma per shared operation over the state: everything it can do. -/

namespace Sys2Proof.Machine

/-- Record keeps the first error, and a later one only sets ERR_OVF (60_exceptions R205). -/
theorem record_cases (code : ErrCode) (ch : Byte) (pos : BitVec 32) (cmd : Word) (s : State) :
    (s.errCode = .none ∧ record code ch pos cmd s = { s with errCode := code, errChar := ch, errPos := pos, errCmd := cmd })
    ∨ (s.errCode ≠ .none ∧ record code ch pos cmd s = { s with errOvf := true }) := by
  unfold record
  by_cases h : s.errCode = .none
  · exact .inl ⟨h, if_pos h⟩
  · exact .inr ⟨h, if_neg h⟩

/-- An error, once raised, is captured: Record never leaves ERR_CODE at none (60_exceptions R205). -/
theorem record_captured {code : ErrCode} (hc : code ≠ .none) (ch : Byte) (pos : BitVec 32) (cmd : Word) (s : State) :
    (record code ch pos cmd s).errCode ≠ .none := by
  rw [record_errCode]
  split
  · exact hc
  · assumption

end Sys2Proof.Machine
end

