-- ==== Sys2Proof/Laws/Step.lean ====
section
/-! SUPPORT. What a command and a step can do, once: provers cite these instead of unfolding `exec` and `step`. -/

namespace Sys2Proof.Machine

/-- Every command answers a next state (60_exceptions R213). -/
theorem exec_next (i : Instr) (s : State) : ∃ t, exec i s = .next t := by
  cases i <;> simp only [exec, execNop, execClear, execCfgAlpha, execCfgDefault, execEncStart, execEncByte, execEncFinish,
    execDecStart, execDecChar, execDecFinish] <;> first | exact ⟨_, rfl⟩ | (repeat' split) <;> exact ⟨_, rfl⟩

/-- Performing a word is performing the command it decodes to, or recording it as illegal (30_encoding R75, R76). -/
theorem performWord_cases {w : Word} {s t : State} (h : performWord w s = .next t) :
    (∃ i, decode w = some i ∧ exec i s = .next t) ∨ (decode w = none ∧ t = raiseIllegal w s) := by
  unfold performWord at h
  split at h
  next i hi => exact .inl ⟨i, hi, h⟩
  next hn =>
    simp only [execIllegal, Host.Outcome.next.injEq] at h
    exact .inr ⟨hn, h.symm⟩

/-- Every word answers a next state. -/
theorem performWord_next (w : Word) (s : State) : ∃ t, performWord w s = .next t := by
  unfold performWord
  split
  next i _ => exact exec_next i s
  next => exact ⟨_, rfl⟩

/-- What the block's turn does: nothing on an empty port; else the head word is performed, or held when its items do not
fit (20_memory R59). -/
theorem takeTurn_cases {s t : State} (h : takeTurn s = .next t) :
    (s.cmdPort = [] ∧ t = s)
    ∨ ∃ w later u, s.cmdPort = w :: later ∧ performWord w { s with cmdPort := later } = .next u
        ∧ ((fits s u = true ∧ t = u) ∨ (fits s u = false ∧ t = s)) := by
  unfold takeTurn at h
  split at h
  next hp =>
    cases h
    exact .inl ⟨hp, rfl⟩
  next w later hp =>
    obtain ⟨u, hu⟩ := performWord_next w (acceptWord s)
    refine .inr ⟨w, later, u, hp, by simpa [acceptWord, hp] using hu, ?_⟩
    simp only [performOrHold, hu] at h
    split at h
    next hf =>
      cases h
      exact .inl ⟨hf, rfl⟩
    next hf =>
      cases h
      exact .inr ⟨by simpa using hf, rfl⟩

/-- What a step can do: the block's turn, or one action of the host or the sink (70_reset_and_hazards R249). -/
theorem step_cases {s t : State} (h : step s = .next t) :
    (s.inbox = [] ∧ takeTurn s = .next t)
    ∨ ∃ a rest, s.inbox = a :: rest ∧ act a { s with inbox := rest } = .next t := by
  unfold step nextAction at h
  split at h
  next hi => exact .inl ⟨hi, h⟩
  next a rest hi => exact .inr ⟨a, rest, hi, h⟩

end Sys2Proof.Machine
end

