-- ==== Sys2Proof/Laws/Frames.lean ====
section
/-! SUPPORT. The results of frames across a reset (70_reset_and_hazards R231), and why no frame with DATA items is missed:
every step keeps `OutClosed`. -/

namespace Sys2Proof.Machine

/-- A reset adds the result 'aborted' for every open frame to the results before it (R231). -/
theorem frameResults_append_sawReset (n : Nat) (events : List SinkEvent) : ∀ data : List Byte,
    frameResults (events ++ [.sawReset n]) data = frameResults events data ++ List.replicate n (.failed .aborted) := by
  induction events with
  | nil => intro data; simp [frameResults]
  | cons e rest ih =>
    intro data
    match e with
    | .took (.data b) => simp [frameResults, ih]
    | .took (.endFrame .ok) => simp [frameResults, ih]
    | .took (.endFrame .invalid) => simp [frameResults, ih]
    | .took (.endFrame .aborted) => simp [frameResults, ih]
    | .sawReset m => simp [frameResults, ih]

/-- A frame is open for the sink exactly when one is active or an END has not been taken (R231). -/
theorem openFrames_pos_iff (s : State) :
    0 < openFrames s ↔ s.mode ≠ .idle ∨ ∃ st, OutItem.endFrame st ∈ s.out.drop s.taken := by
  have hEnd : 0 < (s.out.drop s.taken).countP isEnd ↔ ∃ st, OutItem.endFrame st ∈ s.out.drop s.taken := by
    rw [List.countP_pos_iff]
    constructor
    · rintro ⟨item, hm, he⟩
      cases item with
      | data b => simp [isEnd] at he
      | endFrame st => exact ⟨st, hm⟩
    · rintro ⟨st, hm⟩
      exact ⟨_, hm, rfl⟩
  rw [← hEnd, openFrames]
  split <;> rename_i h <;> simp [h]

/-- Every command keeps `OutClosed`. -/
theorem exec_outClosed {i : Instr} {s t : State} (hs : OutClosed s) (h : exec i s = .next t) : OutClosed t := by
  unfold OutClosed at hs ⊢
  cases i with
  | nop =>
    cases h
    exact hs
  | clear =>
    simp only [exec, execClear, Host.Outcome.next.injEq] at h
    subst h
    split <;> simp_all [emit]
  | cfgAlpha idx d =>
    simp only [exec, execCfgAlpha] at h
    split at h <;> cases h <;> simpa using hs
  | cfgDefault =>
    simp only [exec, execCfgDefault] at h
    split at h <;> cases h <;> simpa using hs
  | encStart p =>
    simp only [exec, execEncStart] at h
    (repeat' split at h) <;> cases h <;> simp_all
  | encByte d =>
    simp only [exec, execEncByte] at h
    (repeat' split at h) <;> cases h <;> simp_all
  | encFinish =>
    simp only [exec, execEncFinish] at h
    (repeat' split at h) <;> cases h <;> simp_all
  | decStart =>
    simp only [exec, execDecStart] at h
    (repeat' split at h) <;> cases h <;> simp_all
  | decChar d =>
    simp only [exec, execDecChar] at h
    (repeat' split at h) <;> cases h
    · rename_i hm
      have hfed : (feedChar d s).mode = .dec ∨ (feedChar d s).mode = .decErr := by
        unfold feedChar holdChar acceptSymbol
        (repeat' split) <;> first | (simp [hm]; done) | (dsimp only; split <;> simp [hm])
      rcases hfed with hfed | hfed <;> simp [hfed]
    all_goals simp_all
  | decFinish =>
    simp only [exec, execDecFinish, closeDec] at h
    (repeat' split at h) <;> cases h <;> simp_all

/-- Every word keeps `OutClosed`. -/
theorem performWord_outClosed {w : Word} {s t : State} (hs : OutClosed s) (h : performWord w s = .next t) : OutClosed t := by
  obtain ⟨i, -, hi⟩ | ⟨-, rfl⟩ := performWord_cases h
  · exact exec_outClosed hs hi
  · simpa [OutClosed] using hs

/-- Every step keeps `OutClosed`. -/
theorem step_outClosed {s t : State} (hs : OutClosed s) (h : step s = .next t) : OutClosed t := by
  have hturn : ∀ u : State, OutClosed u → takeTurn u = .next t → OutClosed t := by
    intro u hu hu'
    obtain ⟨-, rfl⟩ | ⟨w, later, v, -, hv, ⟨-, rfl⟩ | ⟨-, rfl⟩⟩ := takeTurn_cases hu'
    · exact hu
    · exact performWord_outClosed (by exact hu) hv
    · exact hu
  obtain ⟨-, h⟩ | ⟨a, rest, -, h⟩ := step_cases h
  · exact hturn s hs h
  · cases a with
    | turn => exact hturn { s with inbox := rest } hs h
    | send w => cases h; exact hs
    | read r => cases h; exact hs
    | take =>
      cases h
      unfold takeItem
      split <;> exact hs
    | reset =>
      cases h
      simp [OutClosed, assertReset, State.reset]

/-- The reset state meets `OutClosed`. -/
theorem reset_outClosed : OutClosed State.reset := by simp [OutClosed, State.reset]

/-- A sink that has taken a DATA item and not the END of its frame has an open frame: a reset then aborts it (R231). -/
theorem openFrames_pos_of_data {s : State} {b : Byte} (hs : OutClosed s)
    (hb : (s.out.take s.taken).getLast? = some (.data b)) : 0 < openFrames s := by
  rw [openFrames_pos_iff]
  by_contra hopen
  push Not at hopen
  obtain ⟨hm, hEnd⟩ := hopen
  rcases hlast : s.out.drop s.taken with _ | ⟨x, l⟩
  · rw [List.drop_eq_nil_iff] at hlast
    rw [List.take_of_length_le hlast] at hb
    exact hs hm b hb
  · have hne : s.out.drop s.taken ≠ [] := by rw [hlast]; simp
    cases hl : (s.out.drop s.taken).getLast hne with
    | endFrame st => exact hEnd st (hl ▸ List.getLast_mem hne)
    | data c =>
      refine hs hm c ?_
      rw [← List.take_append_drop s.taken s.out, List.getLast?_append_of_ne_nil _ hne, List.getLast?_eq_some_getLast hne, hl]

end Sys2Proof.Machine
end

