-- ==== Sys2Proof/Laws/Operands.lean ====
section
/-! SUPPORT. One lemma per helper of the commands: what it answers. -/

namespace Sys2Proof.Machine

/-- `symVals` lists every symbol value. -/
theorem mem_symVals (i : SymVal) : i ∈ symVals := by
  revert i; decide

/-- The trim set, character by character (00_scope R6). -/
theorem inTrim_iff (c : Byte) :
    inTrim c = true ↔ c ∈ [0x3D#8, 0x20#8, 0x09#8, 0x0A#8, 0x0D#8, 0x00#8, 0x0B#8] := by
  simp [inTrim, Config.trimSet]

/-- lc is idempotent (40_configuration R106). -/
theorem lc_lc (c : Byte) : lc (lc c) = lc c := by
  revert c; decide

/-- A trim-set byte is no letter, so folding leaves it and reaches it from nowhere else. -/
theorem inTrim_lc (c : Byte) : inTrim (lc c) = inTrim c := by
  revert c; decide

/-- An entry that is written reads as the new symbol, and every other one as before (40_configuration R100). -/
theorem entry_setEntry (A : Alphabet) (i j : SymVal) (c : Byte) :
    entry (setEntry A i c) j = if j = i then c else entry A j := by
  unfold entry setEntry
  rw [Vector.getElem_set]
  by_cases h : j = i
  · simp [h]
  · rw [if_neg h, if_neg]
    intro hn
    exact h (BitVec.eq_of_toNat_eq hn.symm)

/-- The loop of ENC_BYTE stops when at most 4 bits are buffered (41_encoder R121). -/
theorem drain_of_le (A : Alphabet) (rs : Nat) (acc : BitVec 12) (h : rs ≤ 4) : drain A rs acc = ([], acc, rs) := by
  match rs, h with
  | 0, _ | 1, _ | 2, _ | 3, _ | 4, _ => rfl

/-- One round of the loop of ENC_BYTE takes the top group and drops it (41_encoder R121). -/
theorem drain_add_five (A : Alphabet) (rs : Nat) (acc : BitVec 12) :
    drain A (rs + 5) acc =
      (entry A (window acc rs) :: (drain A rs (lowBits acc rs)).1, (drain A rs (lowBits acc rs)).2) := rfl

/-- What the loop of ENC_BYTE leaves and how many symbols it takes: it divides by 5 (41_encoder R126). -/
theorem drain_spec (A : Alphabet) (rs : Nat) : ∀ acc : BitVec 12,
    (drain A rs acc).2.2 = rs % 5 ∧ (drain A rs acc).1.length = rs / 5 := by
  induction rs using Nat.strongRecOn with
  | _ rs ih =>
    intro acc
    by_cases h : rs ≤ 4
    · rw [drain_of_le A rs acc h]
      exact ⟨by dsimp; omega, by dsimp; omega⟩
    · obtain ⟨r, rfl⟩ : ∃ r, rs = r + 5 := ⟨rs - 5, by omega⟩
      obtain ⟨h1, h2⟩ := ih r (by omega) (lowBits acc r)
      rw [drain_add_five]
      exact ⟨by dsimp; omega, by dsimp; omega⟩

/-- `lowBits` keeps the value modulo a power of two. -/
theorem toNat_lowBits (v : BitVec 12) (n : Nat) (h : n ≤ 12) : (lowBits v n).toNat = v.toNat % 2 ^ n := by
  have hm : ((1#12 <<< n) - 1#12).toNat = 2 ^ n - 1 := by
    interval_cases n <;> rfl
  rw [lowBits, BitVec.toNat_and, hm, Nat.and_two_pow_sub_one_eq_mod]

/-- The bit window is bits rs+4 to rs (41_encoder R123). -/
theorem toNat_window (acc : BitVec 12) (rs : Nat) (h : rs ≤ 7) :
    (window acc rs).toNat = acc.toNat / 2 ^ rs % 32 := by
  have hw : window acc rs = acc.extractLsb' rs 5 := by
    apply BitVec.eq_of_getLsbD_eq
    intro k hk
    simp only [window, BitVec.getLsbD_setWidth, BitVec.getLsbD_ushiftRight, BitVec.getLsbD_and,
      BitVec.getLsbD_shiftLeft, BitVec.getLsbD_extractLsb', Config.mask]
    interval_cases rs <;> interval_cases k <;> simp
  rw [hw, BitVec.extractLsb'_toNat, Nat.shiftRight_eq_div_pow]

/-- The byte window is bits bs+7 to bs (42_decoder R148). -/
theorem toNat_byteWindow (buf : BitVec 12) (bs : Nat) (h : bs ≤ 4) :
    (byteWindow buf bs).toNat = buf.toNat / 2 ^ bs % 256 := by
  have hw : byteWindow buf bs = buf.extractLsb' bs 8 := by
    apply BitVec.eq_of_getLsbD_eq
    intro k hk
    simp only [byteWindow, BitVec.getLsbD_setWidth, BitVec.getLsbD_ushiftRight, BitVec.getLsbD_and,
      BitVec.getLsbD_shiftLeft, BitVec.getLsbD_extractLsb']
    interval_cases bs <;> interval_cases k <;> simp
  rw [hw, BitVec.extractLsb'_toNat, Nat.shiftRight_eq_div_pow]

/-- padCount never exceeds 6, whatever the count is (41_encoder R130). -/
theorem padCount_le (k : BitVec 3) : padCount k.toNat ≤ 6 := by
  revert k; decide

/-- The alphabet after CFG_DEFAULT and reset is valid (40_configuration R103). -/
theorem cfgValid_default : cfgValid Config.defaultAlphabet = true := by decide

end Sys2Proof.Machine
end

