-- ==== Sys2Proof/Laws/PerInstr.lean ====
section
/-! SUPPORT. The families of statements made per instruction (LAWS.json). -/

namespace Sys2Proof.Laws

/-- The match word and the mask word of a command (30_encoding R74). -/
def tableWords : Instr → Word × Word
  | .nop => (0x00000000#32, 0xFFFFFFFF#32)
  | .clear => (0x10000000#32, 0xFFFFFFFF#32)
  | .cfgAlpha _ _ => (0x20000000#32, 0xFFFFE000#32)
  | .cfgDefault => (0x30000000#32, 0xFFFFFFFF#32)
  | .encStart _ => (0x40000000#32, 0xFFFEFFFF#32)
  | .encByte _ => (0x50000000#32, 0xFFFFFF00#32)
  | .encFinish => (0x60000000#32, 0xFFFFFFFF#32)
  | .decStart => (0x80000000#32, 0xFFFFFFFF#32)
  | .decChar _ => (0x90000000#32, 0xFFFFFF00#32)
  | .decFinish => (0xA0000000#32, 0xFFFFFFFF#32)

/-- The word of a command lies in the command's pattern: masked, it is the match word (30_encoding R74). -/
def WordInPattern.Statement (i : Instr) : Prop := encode i &&& (tableWords i).2 = (tableWords i).1

theorem WordInPattern.nop : WordInPattern.Statement .nop := by unfold Statement; decide

theorem WordInPattern.clear : WordInPattern.Statement .clear := by unfold Statement; decide

theorem WordInPattern.cfgAlpha (idx : SymVal) (d : Byte) : WordInPattern.Statement (.cfgAlpha idx d) := by
  apply BitVec.eq_of_getLsbD_eq
  intro k hk
  simp only [encode, tableWords]
  rw [BitVec.getLsbD_and, cmd32_getLsbD]
  interval_cases k <;> simp

theorem WordInPattern.cfgDefault : WordInPattern.Statement .cfgDefault := by unfold Statement; decide

theorem WordInPattern.encStart (p : Bool) : WordInPattern.Statement (.encStart p) := by
  unfold Statement
  revert p; decide

theorem WordInPattern.encByte (d : Byte) : WordInPattern.Statement (.encByte d) := by
  unfold Statement
  revert d; decide

theorem WordInPattern.encFinish : WordInPattern.Statement .encFinish := by unfold Statement; decide

theorem WordInPattern.decStart : WordInPattern.Statement .decStart := by unfold Statement; decide

theorem WordInPattern.decChar (d : Byte) : WordInPattern.Statement (.decChar d) := by
  unfold Statement
  revert d; decide

theorem WordInPattern.decFinish : WordInPattern.Statement .decFinish := by unfold Statement; decide

end Sys2Proof.Laws
end

