-- ==== Sys2Proof/Tests/Slice0.lean ====
section
/-! SUPPORT. Tests of the model against the spec's worked examples and vectors (95_test_vectors, and the examples of the
command rules), and for every obligation with hypotheses a state and operands that meet them. -/

namespace Sys2Proof.Tests

open Sys2Proof.Machine

/-- The next state, if there is one. -/
def nextOf (o : Host.Outcome State Fault Refusal) : Option State :=
  match o with
  | .next t => some t
  | .fault _ => none
  | .refused _ => none

/-- An open encode frame. -/
def encState (acc : BitVec 12) (rs : BitVec 4) (cnt : BitVec 3) (p : Bool) : State :=
  { State.reset with mode := .enc, encAcc := acc, encRs := rs, encCnt5 := cnt, pad := p }

/-- An open decode frame with no held character. -/
def decState (buf : BitVec 12) (bs : BitVec 4) (pos : BitVec 32) : State :=
  { State.reset with mode := .dec, decBuf := buf, decBs := bs, decPos := pos }

/-- An open decode frame that holds `c`. -/
def heldState (c : Byte) (hpos pos : BitVec 32) : State :=
  { State.reset with mode := .dec, decHeld := true, decHchar := c, decHpos := hpos, decPos := pos }

/-- The reset state in another mode. -/
def inMode (m : Mode) : State := { State.reset with mode := m }

/-- The reset state with an error captured. -/
def captured : State := { State.reset with errCode := .sequence, errCmd := 0x60000000#32 }

/-- The reset state with another alphabet. -/
def withAlpha (A : Alphabet) : State := { State.reset with alpha := A }

/-- An alphabet with a duplicate: entry 5 is 'A' (vector G6). -/
def dupAlpha : Alphabet := setEntry Config.defaultAlphabet 5#5 0x41#8

/-- A valid alphabet with a lower-case letter: entry 0 is 'a' (vector G1). -/
def lowAlpha : Alphabet := setEntry Config.defaultAlphabet 0#5 0x61#8

/-- An alphabet with a trim-set byte: entry 5 is ' ' (90_conflicts C7). -/
def trimAlpha : Alphabet := setEntry Config.defaultAlphabet 5#5 0x20#8

/-! ## Well-formedness: an ill-formed line for each check (30_encoding R78, R79) -/

theorem test_wf_idx : Source.wellFormed (.cfgAlpha 31 255) = true ∧ Source.wellFormed (.cfgAlpha 32 0) = false := by decide
theorem test_wf_sym : Source.wellFormed (.cfgAlpha 0 256) = false := by decide
theorem test_wf_p : Source.wellFormed (.encStart 1) = true ∧ Source.wellFormed (.encStart 2) = false := by decide
theorem test_wf_byte : Source.wellFormed (.encByte 255) = true ∧ Source.wellFormed (.encByte 256) = false := by decide
theorem test_wf_char : Source.wellFormed (.decChar 255) = true ∧ Source.wellFormed (.decChar 256) = false := by decide
theorem test_wf_encode : Source.wellFormed (.encode [] 1) = true ∧ Source.wellFormed (.encode [] 2) = false := by decide
theorem test_wf_alphabet : Source.wellFormed (.cfgAlphabet (List.replicate 32 0#8)) = true
    ∧ Source.wellFormed (.cfgAlphabet (List.replicate 31 0#8)) = false := by decide

/-! ## Decoding, every command from its word (30_encoding R74; 95_test_vectors section 2) -/

/-- W1, W2: the control family. -/
theorem test_decode_control : decode 0x00000000#32 = some .nop ∧ decode 0x10000000#32 = some .clear := by decide
/-- W3 to W5: the configuration family, IDX in bits 12 to 8. -/
theorem test_decode_configuration :
    decode 0b00100000000000000001111100110111#32 = some (.cfgAlpha 31#5 0x37#8)
    ∧ decode 0x20000061#32 = some (.cfgAlpha 0#5 0x61#8) ∧ decode 0x30000000#32 = some .cfgDefault := by decide
/-- W6 to W8: the encoder family, P in bit 16. -/
theorem test_decode_encoder :
    decode 0x40000000#32 = some (.encStart false) ∧ decode 0b01000000000000010000000000000000#32 = some (.encStart true)
    ∧ decode 0x50000066#32 = some (.encByte 0x66#8) ∧ decode 0x500000FF#32 = some (.encByte 0xFF#8)
    ∧ decode 0x60000000#32 = some .encFinish := by decide
/-- W9 to W11: the decoder family. -/
theorem test_decode_decoder :
    decode 0x80000000#32 = some .decStart ∧ decode 0b10010000000000000000000001001101#32 = some (.decChar 0x4D#8)
    ∧ decode 0x90000000#32 = some (.decChar 0x00#8) ∧ decode 0xA0000000#32 = some .decFinish := by decide
/-- W12: OP values that name no command are rejected as such. -/
theorem test_reject_op : decodeWord 0x70000000#32 = .error (.unallocatedOp 0x7#4)
    ∧ decodeWord 0xB0000000#32 = .error (.unallocatedOp 0xB#4) ∧ decodeWord 0xF0000000#32 = .error (.unallocatedOp 0xF#4) := by
  exact ⟨rfl, rfl, rfl⟩
/-- W13 to W17: set must-be-zero bits are rejected as such. -/
theorem test_reject_reserved :
    [0x00000001#32, 0x10000100#32, 0x30010000#32, 0x60000001#32, 0x80000080#32, 0xA0008000#32, 0x08000000#32,
     0x20002000#32, 0x40000001#32, 0x40020000#32, 0x50000100#32, 0x50000166#32, 0x90010041#32].all
      (fun w => (decode w).isNone) = true
    ∧ decodeWord 0x20002000#32 = .error (.reservedBitSet 0x2#4) := by
  exact ⟨by decide, rfl⟩
/-- The table's numbering is the word's. -/
theorem test_table_word : decodeTableWord 32 0x50000066 = some (.encByte 0x66#8) := by decide

/-! ## The assembler's text (30_encoding R78, R79, R80) -/

theorem test_asm_cfg_alpha :
    assembleLine ['c', 'f', 'g', '.', 'a', 'l', 'p', 'h', 'a', ' ', '3', '1', ',', ' ', '\'', '7', '\''] = some [0x20001F37#32] := by
  decide
theorem test_asm_escape :
    assembleLine ['d', 'e', 'c', '.', 'c', 'h', 'a', 'r', ' ', '\'', '\\', 'n', '\''] = some [0x9000000A#32] := by decide
theorem test_asm_refuses : assembleLine ['e', 'n', 'c', '.', 'b', 'y', 't', 'e', ' ', '2', '5', '6'] = none := by decide
/-- R78: a literal is no `<p>` and no `<idx>`: `enc.start '\x01'` and `cfg.alpha '\t', 65`. -/
theorem test_asm_literal_places :
    assembleLine ['e', 'n', 'c', '.', 's', 't', 'a', 'r', 't', ' ', '\'', '\\', 'x', '0', '1', '\''] = none
    ∧ assembleLine ['c', 'f', 'g', '.', 'a', 'l', 'p', 'h', 'a', ' ', '\'', '\\', 't', '\'', ',', ' ', '6', '5'] = none := by
  decide
theorem test_asm_decode :
    assembleLine ['d', 'e', 'c', 'o', 'd', 'e', ' ', '"', 'M', 'Y', '"']
      = some [0x80000000#32, 0x9000004D#32, 0x90000059#32, 0xA0000000#32] := by decide

/-! ## One step each -/

/-- E31: NOP leaves STATUS 0x0000000D. -/
theorem test_nop : (nextOf (exec .nop (encState 0#12 0#4 0#3 true))).map statusWord = some 0x0000000D#32 := by decide
/-- E32: CLEAR emits END(2) and returns to IDLE. -/
theorem test_clear : (nextOf (exec .clear (encState 6#12 3#4 1#3 false))).map (fun t => (t.out, statusWord t, t.encAcc))
    = some ([.endFrame .aborted], 0x00000004#32, 0#12) := by decide
/-- K3: CLEAR in IDLE emits nothing and clears the capture. -/
theorem test_clear_idle : nextOf (exec .clear captured) = some State.reset := by decide
/-- G2: an alphabet made invalid. -/
theorem test_cfg_alpha : (nextOf (exec (.cfgAlpha 0#5 0x62#8) State.reset)).map statusWord = some 0x00000000#32 := by decide
/-- G10: CFG_ALPHA in a frame is a SequenceError, and ALPHA_R[0] still reads 0x41. -/
theorem test_cfg_alpha_in_frame : (nextOf (exec (.cfgAlpha 0#5 0x61#8) (inMode .enc))).map
    (fun t => (readReg t 0#6, readReg t 32#6, readReg t 3#6)) = some (0x00000305#32, 0x00000041#32, 0x20000061#32) := by decide
/-- G7: CFG_DEFAULT restores ALPHA_R[5] = 0x46 and validity. -/
theorem test_cfg_default : (nextOf (exec .cfgDefault (withAlpha dupAlpha))).map (fun t => (readReg t 0#6, readReg t 37#6))
    = some (0x00000004#32, 0x00000046#32) := by decide
/-- E34: a second ENC_START is a SequenceError, and the frame goes on with PAD 0. -/
theorem test_enc_start_twice : (nextOf (exec (.encStart true) (inMode .enc))).map (fun t => (readReg t 0#6, readReg t 3#6))
    = some (0x00000305#32, 0x40010000#32) := by decide
/-- G12: ENC_START under an invalid alphabet. -/
theorem test_enc_start_invalid : (nextOf (exec (.encStart true) (withAlpha dupAlpha))).map
    (fun t => (readReg t 0#6, readReg t 3#6)) = some (0x00000200#32, 0x40010000#32) := by decide
/-- Section 3.2, 'b' after "foo": two symbols, '6' 'Y'. -/
theorem test_enc_byte_two : (nextOf (exec (.encByte 0x62#8) (encState 15#12 4#4 3#3 true))).map
    (fun t => (t.out, t.encAcc, t.encRs, t.encCnt5)) = some ([.data 0x36#8, .data 0x59#8], 2#12, 2#4, 4#3) := by decide
/-- Section 3.2, the second 'o': one symbol, 'W'. -/
theorem test_enc_byte_one : (nextOf (exec (.encByte 0x6F#8) (encState 1#12 1#4 2#3 true))).map
    (fun t => (t.out, t.encAcc, t.encRs, t.encCnt5)) = some ([.data 0x57#8], 15#12, 4#4, 3#3) := by decide
/-- Section 3.2, the end of "foobar": 'I', six '=', END(0). -/
theorem test_enc_finish : (nextOf (exec .encFinish (encState 2#12 3#4 1#3 true))).map (fun t => (t.out, statusWord t))
    = some ([.data 0x49#8, .data 0x3D#8, .data 0x3D#8, .data 0x3D#8, .data 0x3D#8, .data 0x3D#8, .data 0x3D#8,
             .endFrame .ok], 0x00000004#32) := by decide
/-- E30: an empty padded frame has no padding. -/
theorem test_enc_finish_empty : (nextOf (exec .encFinish (encState 0#12 0#4 0#3 true))).map (·.out)
    = some [.endFrame .ok] := by decide
/-- R140: STATUS after DEC_START. -/
theorem test_dec_start : (nextOf (exec .decStart State.reset)).map statusWord = some 0x00000006#32 := by decide
/-- Section 4.2, 'W' after "MZX": byte 6F, four bits left. -/
theorem test_dec_char : (nextOf (exec (.decChar 0x57#8) (decState 55#12 7#4 3#32))).map
    (fun t => (t.out, t.decBuf, t.decBs, t.decPos)) = some ([.data 0x6F#8], 6#12, 4#4, 4#32) := by decide
/-- X2: "MY M" raises InvalidSymbol(' ', 2) by the word of 'M'. -/
theorem test_dec_char_held : (nextOf (exec (.decChar 0x4D#8) (heldState 0x20#8 2#32 3#32))).map
    (fun t => (readReg t 0#6, readReg t 1#6, readReg t 2#6, readReg t 3#6))
    = some (0x00000107#32, 0x00000020#32, 0x00000002#32, 0x9000004D#32) := by decide
/-- X20: DEC_FINISH after an error emits END(1). -/
theorem test_dec_finish_failed : (nextOf (exec .decFinish (inMode .decErr))).map (·.out) = some [.endFrame .invalid] := by decide
/-- D7: held characters are dropped at DEC_FINISH. -/
theorem test_dec_finish_held : (nextOf (exec .decFinish (heldState 0x3D#8 7#32 8#32))).map (fun t => (t.out, t.decHeld))
    = some ([.endFrame .ok], false) := by decide
/-- K11: 0x50000100 in IDLE is an IllegalCommand, not a SequenceError. -/
theorem test_illegal : (nextOf (performWord 0x50000100#32 State.reset)).map (fun t => (readReg t 0#6, readReg t 3#6))
    = some (0x00000404#32, 0x50000100#32) := by decide
/-- X22: a second error only sets ERR_OVF. -/
theorem test_second_error : (nextOf (exec .encFinish { inMode .decErr with errCode := .invalidSymbol, errChar := 0x40#8, errCmd := 0x90000040#32 })).map
    (fun t => (readReg t 0#6, readReg t 1#6, readReg t 3#6)) = some (0x00000907#32, 0x00000040#32, 0x90000040#32) := by decide
/-- G15: register reads at reset. -/
theorem test_reads : [4#6, 32#6, 63#6, 5#6, 31#6].map (readReg State.reset)
    = [0x0000001F#32, 0x00000041#32, 0x00000037#32, 0x00000000#32, 0x00000000#32] := by decide
/-- The very next step performs a word put where the step takes it from: ENC_START after reset. -/
theorem test_fetch : (nextOf (step (State.reset.withFetchWord 32 0x40010000))).map (fun t => (statusWord t, t.cmdPort))
    = some (0x0000000D#32, []) := by decide
/-- The same for a command that emits: CLEAR in a frame. -/
theorem test_fetch_emits : (nextOf (step ((inMode .enc).withFetchWord 32 0x10000000))).map (·.out)
    = some [.endFrame .aborted] := by decide
/-- S1: the reference function on "f" (R181). -/
theorem test_encode_ref : encodeRef Config.defaultAlphabet [0x66#8] false = [0x4D#8, 0x59#8] := by decide
/-- X3: the reference function on "M=Y" (R182). -/
theorem test_decode_ref : decodeRef Config.defaultAlphabet [0x4D#8, 0x3D#8, 0x59#8] = .error (0x3D#8, 1) := by rfl
/-- R203: void DATA items give no result. R231: a reset aborts the open frame, with DATA items taken or without. -/
theorem test_results : frameResults [.took (.data 1#8), .took (.endFrame .invalid), .took (.data 2#8),
    .took (.endFrame .ok), .took (.data 3#8), .sawReset 1, .sawReset 1] []
      = [.failed .invalid, .ok [2#8], .failed .aborted, .failed .aborted] := by decide

/-! ## Witnesses: what meets the hypotheses of each obligation, clause by clause, at the boundaries -/

theorem witness_EncodeOfDecodeIsIdentity : decode 0x20001FFF#32 = some (.cfgAlpha 31#5 0xFF#8) := by decide

/-- One illegal word for each cause of R75. -/
theorem witness_IllegalWordsAreRecordedOnly :
    [0x70000000#32, 0xB0000000#32, 0xF0000000#32, 0xA0000001#32, 0x20002000#32, 0x40020000#32, 0x40008000#32,
     0x90000100#32].map decode = List.replicate 8 none := by decide

theorem witness_RegisterMapReadsTheState : (5 ≤ (5#6 : RAddr).toNat ∧ (5#6 : RAddr).toNat ≤ 31)
    ∧ 5 ≤ (31#6 : RAddr).toNat ∧ (31#6 : RAddr).toNat ≤ 31 := by decide

/-- Two states that agree on what can be read and differ in the hidden registers. -/
theorem witness_HiddenStateCannotBeRead :
    (encState 6#12 3#4 1#3 true).mode = (encState 0#12 0#4 0#3 true).mode
    ∧ (encState 6#12 3#4 1#3 true).alpha = (encState 0#12 0#4 0#3 true).alpha
    ∧ (encState 6#12 3#4 1#3 true).pad = (encState 0#12 0#4 0#3 true).pad
    ∧ SameCapture (encState 0#12 0#4 0#3 true) (encState 6#12 3#4 1#3 true) := by
  exact ⟨rfl, rfl, rfl, rfl, rfl, rfl, rfl, rfl⟩

/-- The two clauses on `take`: an item left, and none. -/
theorem witness_HostAndSinkActionsTouchTheirPortOnly :
    let s : State := { State.reset with inbox := [.take], out := [.data 1#8, .endFrame .ok], taken := 1 }
    let t : State := { s with taken := 2 }
    (s.inbox = [.take] ∧ s.out.drop s.taken = [.endFrame .ok]) ∧ t.inbox = [.take] ∧ t.out.drop t.taken = [] := by decide

theorem witness_ResetSetsEveryElement :
    let s : State := { encState 6#12 3#4 1#3 true with inbox := [.reset, .turn] }
    s.inbox = .reset :: [.turn] := by decide

theorem witness_ResetDropsItemsAndWaitingWords :
    let s : State := { encState 6#12 3#4 1#3 true with inbox := [.reset], cmdPort := [0#32], out := [.data 1#8] }
    s.inbox = .reset :: [] := by decide

/-- R231, I19: an active frame with no DATA item, a frame whose END is not taken, both, and none. -/
theorem test_open_frames :
    [inMode .enc, { State.reset with out := [.endFrame .ok] }, { inMode .dec with out := [.data 1#8, .endFrame .ok], taken := 1 },
     { State.reset with out := [.data 1#8, .endFrame .ok], taken := 2 }].map openFrames = [1, 1, 2, 0] := by decide

theorem witness_CfgAlphaWritesItsEntry : State.reset.mode = .idle ∧ entry State.reset.alpha 31#5 = 0x37#8
    ∧ (inMode .decErr).mode ≠ .idle ∧ (30#5 : SymVal) ≠ 31#5 := by decide

theorem witness_CfgDefaultRestoresTheValidDefault : State.reset.mode = .idle ∧ (inMode .dec).mode ≠ .idle
    ∧ (nextOf (exec (.cfgAlpha 5#5 0x41#8) State.reset)).isSome = true := by decide

theorem witness_ValidAlphabetAcceptsAtOneIndex : cfgValid Config.defaultAlphabet = true
    ∧ (entry Config.defaultAlphabet 0#5 = 0x61#8 ∨ lc (entry Config.defaultAlphabet 0#5) = 0x61#8) := by decide

theorem witness_FoldingIsOneWay :
    cfgValid lowAlpha = true ∧ 0x61#8 ≤ entry lowAlpha 0#5 ∧ entry lowAlpha 0#5 ≤ 0x7A#8 := by decide

theorem witness_TrimByteInAlphabetBreaksRoundTrip : inTrim (entry trimAlpha 5#5) = true := by decide

theorem witness_InvalidAlphabetRefusesStart :
    (withAlpha dupAlpha).mode = .idle ∧ cfgValid (withAlpha dupAlpha).alpha = false := by decide

theorem witness_EncStartBeginsAnEmptyFrame :
    (State.reset.mode = .idle ∧ cfgValid State.reset.alpha = true) ∧ (inMode .enc).mode ≠ .idle
    ∧ (withAlpha dupAlpha).mode = .idle ∧ cfgValid (withAlpha dupAlpha).alpha = false := by decide

theorem witness_EncByteShiftsInAndDrains :
    (encState 0#12 0#4 0#3 false).mode = .enc ∧ State.reset.mode ≠ .enc ∧ 4 ≤ 4
    ∧ drain Config.defaultAlphabet 0 (12#12 &&& ((1#12 <<< 0) - 1#12)) = ([], 0#12, 0)
    ∧ (encState 0#12 0#4 0#3 false).encAcc = 0#12 ∧ (encState 0#12 0#4 0#3 false).encRs = 0#4
    ∧ (encState 0#12 0#4 0#3 false).encCnt5 = 0#3 ∧ (encState 0#12 0#4 0#3 false).alpha = Config.defaultAlphabet := by decide

/-- One state for each row of the table of R125, with the largest accumulator of the row. -/
theorem witness_EncByteEmitsByTable :
    [encState 0#12 0#4 0#3 false, encState 1#12 1#4 2#3 false, encState 3#12 2#4 4#3 false, encState 7#12 3#4 1#3 false,
     encState 15#12 4#4 3#3 false].map (fun s => (s.mode, s.encRs, BitVec.ofNat 3 ((s.encCnt5.toNat + 1) % 5)))
      = [(.enc, 0#4, 1#3), (.enc, 1#4, 3#3), (.enc, 2#4, 0#3), (.enc, 3#4, 2#3), (.enc, 4#4, 4#3)]
    ∧ (0xFFF#20 : BitVec 20) = (encState 15#12 4#4 3#3 false).encAcc ++ 0xFF#8 := by decide

theorem witness_EncFinishClosesTheFrame : (encState 6#12 3#4 1#3 false).mode = .enc ∧ State.reset.mode ≠ .enc
    ∧ (encState 6#12 3#4 1#3 false).encAcc = 6#12 ∧ (encState 6#12 3#4 1#3 false).encRs = 3#4
    ∧ (encState 6#12 3#4 1#3 false).pad = false ∧ (encState 6#12 3#4 1#3 false).alpha = Config.defaultAlphabet := by decide

theorem witness_DecStartBeginsAnEmptyFrame :
    (State.reset.mode = .idle ∧ cfgValid State.reset.alpha = true) ∧ (inMode .decErr).mode ≠ .idle
    ∧ (withAlpha dupAlpha).mode = .idle ∧ cfgValid (withAlpha dupAlpha).alpha = false := by decide

theorem witness_DecCharHoldsTrimCharacters :
    (decState 0#12 0#4 0#32).mode = .dec ∧ (decState 0#12 0#4 0#32).decHeld = false
    ∧ (heldState 0x3D#8 0#32 1#32).mode = .dec ∧ (heldState 0x3D#8 0#32 1#32).decHeld = true
    ∧ 0x0B#8 ∈ [0x3D#8, 0x20#8, 0x09#8, 0x0A#8, 0x0D#8, 0x00#8, 0x0B#8] := by decide

theorem witness_DecCharRaisesInvalidSymbol :
    (heldState 0x3D#8 0#32 1#32).mode = .dec ∧ inTrim 0x4D#8 = false ∧ (heldState 0x3D#8 0#32 1#32).decHeld = true
    ∧ (decState 0#12 0#4 0#32).mode = .dec ∧ inTrim 0x40#8 = false ∧ (decState 0#12 0#4 0#32).decHeld = false
    ∧ ∀ i ∈ symVals, entry (decState 0#12 0#4 0#32).alpha i ≠ 0x40#8
        ∧ lc (entry (decState 0#12 0#4 0#32).alpha i) ≠ 0x40#8 := by decide

/-- One state for each row of the table of R149, with the largest buffer of the row, and the operand '7'. -/
theorem witness_DecCharEmitsByTable :
    inTrim 0x37#8 = false ∧ symbolMap Config.defaultAlphabet 0x37#8 = some 31#5
    ∧ ([decState 0#12 0#4 0#32, decState 1#12 1#4 0#32, decState 3#12 2#4 0#32, decState 7#12 3#4 0#32,
        decState 15#12 4#4 0#32, decState 31#12 5#4 0#32, decState 63#12 6#4 0#32, decState 127#12 7#4 0#32].map
        (fun s => (s.mode, s.decHeld, s.decBs, decide (s.decBuf.toNat < 2 ^ s.decBs.toNat))))
      = [(.dec, false, 0#4, true), (.dec, false, 1#4, true), (.dec, false, 2#4, true), (.dec, false, 3#4, true),
         (.dec, false, 4#4, true), (.dec, false, 5#4, true), (.dec, false, 6#4, true), (.dec, false, 7#4, true)]
    ∧ (0xFFF#17 : BitVec 17) = (decState 127#12 7#4 0#32).decBuf ++ 31#5 := by decide

theorem witness_DecCharIsIgnoredAfterAnError :
    (inMode .decErr).mode = .decErr ∧ State.reset.mode = .idle ∧ (inMode .enc).mode = .enc := by decide

theorem witness_DecFinishClosesTheFrame : (inMode .dec).mode = .dec ∧ (inMode .decErr).mode = .decErr
    ∧ State.reset.mode = .idle ∧ (inMode .enc).mode = .enc := by decide

theorem witness_NopHasNoEffect : (0x00000001#32 : Word).extractLsb' 28 4 = 0#4 ∧ (0x00000001#32 : Word) ≠ 0#32 := by decide

theorem witness_RecordKeepsTheFirstError : State.reset.errCode = .none ∧ captured.errCode ≠ .none
    ∧ (nextOf (step captured)).isSome = true := by decide

theorem witness_SequenceErrorExactlyOutsideLegalModes : legal (.encByte 0#8) State.reset.mode = false
    ∧ legal (.decChar 0#8) (inMode .decErr).mode = true ∧ (inMode .decErr).errCode = .none := by decide

/-- A word that changes the capture, for each of the three cases. -/
theorem witness_ErrorsChangeOnlyTheCapture :
    (nextOf (performWord 0x00000000#32 State.reset)).isSome = true ∧ decode 0x00000000#32 ≠ some .clear
    ∧ (nextOf (performWord 0x70000000#32 State.reset)).map (·.errCode) = some .illegalCmd
    ∧ (nextOf (performWord 0x90000040#32 (inMode .dec))).map (·.errCode) = some .invalidSymbol := by decide

/-- An open frame that meets the invariant. -/
theorem frameInv_encState : FrameInv (encState 15#12 4#4 3#3 true) :=
  ⟨by decide, by decide, by decide, by decide, by decide, by decide, by decide, by decide, by decide⟩

/-- A decode frame with the fullest buffer that meets the invariant. -/
theorem frameInv_decState : FrameInv (decState 127#12 7#4 3#32) :=
  ⟨by decide, by decide, by decide, by decide, by decide, by decide, by decide, by decide, by decide⟩

theorem witness_ItemsPerCommandAreBounded : FrameInv (encState 15#12 4#4 3#3 true) ∧ FrameInv (decState 127#12 7#4 3#32)
    ∧ legal .decFinish (decState 127#12 7#4 3#32).mode = true := ⟨frameInv_encState, frameInv_decState, by decide⟩

theorem witness_ModeChangesOnlyByItsWriters :
    (nextOf (exec .decStart State.reset)).map (·.mode) = some .dec ∧ Mode.dec ≠ State.reset.mode := by decide

theorem witness_AlphabetChangesOnlyInIdle :
    let s : State := { State.reset with cmdPort := [0x20000061#32] }
    (nextOf (step s)).map (fun t => decide (t.alpha = s.alpha)) = some false ∧ s.inbox.head? ≠ some .reset := by decide

theorem witness_CommandsLeaveTheRestAlone : (nextOf (exec (.encByte 0#8) (encState 0#12 0#4 0#3 true))).isSome = true
    ∧ (nextOf (exec (.decChar 0x41#8) (decState 0#12 0#4 0#32))).map (·.mode) = some (decState 0#12 0#4 0#32).mode := by decide

/-- A command that fits, one that is held whatever the depth of the buffer is, and an illegal word. -/
theorem witness_StepPerformsTheHeadWordOrHoldsIt :
    (∃ t, exec .nop { State.reset with cmdPort := [] } = .next t ∧ t.out.length = State.reset.out.length)
    ∧ decode 0x60000000#32 = some .encFinish ∧ decode 0x70000000#32 = none
    ∧ ∃ t : State, exec .encFinish { inMode .enc with out := List.replicate Config.outDepth (.data 0#8) } = .next t
      ∧ ¬(t.out.length = Config.outDepth ∨ t.out.length - 0 ≤ Config.outDepth) := by
  refine ⟨⟨_, rfl, rfl⟩, by decide, by decide, _, rfl, ?_⟩
  have h : ((List.replicate Config.outDepth (OutItem.data 0#8)) ++ [OutItem.endFrame .ok]).length = Config.outDepth + 1 := by simp
  intro hc
  have h2 : ((List.replicate Config.outDepth (OutItem.data 0#8)) ++ [OutItem.endFrame .ok]).length = Config.outDepth
      ∨ ((List.replicate Config.outDepth (OutItem.data 0#8)) ++ [OutItem.endFrame .ok]).length - 0 ≤ Config.outDepth := hc
  rw [h] at h2
  omega

theorem witness_DrainedBufferNeverHolds :
    let s : State := { inMode .enc with inbox := [.turn], cmdPort := [0x60000000#32], out := [.data 0#8], taken := 1 }
    s.inbox = .turn :: [] ∧ s.cmdPort = 0x60000000#32 :: [] ∧ s.taken = s.out.length
      ∧ decode 0x60000000#32 = some .encFinish := by decide

theorem witness_EveryStepGoesOn : State.reset.inbox = [] ∧ State.reset.cmdPort = [] := by decide

theorem witness_StepKeepsFrameInv : FrameInv (encState 15#12 4#4 3#3 true)
    ∧ (nextOf (step (encState 15#12 4#4 3#3 true))).isSome = true := ⟨frameInv_encState, by decide⟩

theorem witness_StepKeepsConfigInv : ConfigInv (encState 15#12 4#4 3#3 true)
    ∧ (nextOf (step (encState 15#12 4#4 3#3 true))).isSome = true := ⟨by intro _; decide, by decide⟩

theorem witness_StepKeepsCaptureInv : CaptureInv captured ∧ (nextOf (step captured)).isSome = true :=
  ⟨⟨by decide, by decide, ⟨.encFinish, by decide, by decide, by decide⟩, by decide⟩, by decide⟩

theorem witness_StepKeepsOutputInv :
    let s : State := { State.reset with inbox := [.take], out := [.data 1#8, .endFrame .ok], taken := 1, sink := [.took (.data 1#8)] }
    OutputInv s ∧ (nextOf (step s)).isSome = true := by
  refine ⟨⟨by decide, ?_, by decide⟩, by decide⟩
  change 1 ≤ Config.outDepthExtra + 8
  omega

theorem witness_StepKeepsHeldInv : HeldInv (heldState 0x0B#8 7#32 9#32)
    ∧ (nextOf (step (heldState 0x0B#8 7#32 9#32))).isSome = true := ⟨by intro _; decide, by decide⟩

theorem witness_OutOnlyGrowsBetweenResets : (nextOf (step State.reset)).isSome = true
    ∧ State.reset.inbox.head? ≠ some .reset := by decide

theorem witness_InstancesAreIndependent : (0 : Nat) ≠ 1 := by decide

theorem witness_EncodeFrameEqualsEncodeRef : captured.mode = .idle ∧ cfgValid captured.alpha = true := by decide

/-- A text that decodes, and one that raises InvalidSymbol. -/
theorem witness_DecodeFrameEqualsDecodeRef : captured.mode = .idle ∧ cfgValid captured.alpha = true
    ∧ decodeRef captured.alpha [0x4D#8, 0x59#8] = .ok [0x66#8]
    ∧ decodeRef captured.alpha [0x4D#8, 0x3D#8, 0x59#8] = .error (0x3D#8, 1) := ⟨by decide, by decide, rfl, rfl⟩

theorem witness_DecodingInvertsEncoding : cfgValid lowAlpha = true ∧ (withAlpha lowAlpha).mode = .idle := by decide

/-- An alphabet without and one with a lower-case letter, and an encoding that holds it. -/
theorem witness_DecodeRefFoldsLowerCase : cfgValid Config.defaultAlphabet = true
    ∧ (∀ i ∈ symVals, ¬(0x61#8 ≤ entry Config.defaultAlphabet i ∧ entry Config.defaultAlphabet i ≤ 0x7A#8))
    ∧ cfgValid lowAlpha = true ∧ ∃ c ∈ encodeRef lowAlpha [0#8] false, 0x61#8 ≤ c ∧ c ≤ 0x7A#8 := by decide

theorem witness_TrailingTrimBytesAreIgnored : ∀ c ∈ [0x3D#8, 0x20#8, 0x00#8], inTrim c = true := by decide

theorem witness_DecodeRefRejectsInvalidSymbols : cfgValid Config.defaultAlphabet = true
    ∧ (∃ c ∈ rtrim [0x4D#8, 0x3D#8, 0x59#8], inTrim c = true ∨ symbolMap Config.defaultAlphabet c = none)
    ∧ ∃ c ∈ rtrim [0x40#8], inTrim c = true ∨ symbolMap Config.defaultAlphabet c = none := by decide

theorem witness_EmptyInputGivesEmptyOutput : State.reset.mode = .idle ∧ cfgValid State.reset.alpha = true := by decide

/-- Two states in IDLE with one alphabet and different captures and outputs. -/
theorem witness_FramesDependOnlyOnAlphabetAndCommands : State.reset.mode = .idle ∧ captured.mode = .idle
    ∧ State.reset.alpha = captured.alpha ∧ State.reset.errCode ≠ captured.errCode := by decide

end Sys2Proof.Tests
end

section
/-! SUPPORT. Every command is decoded from its own word (30_encoding R74). -/

namespace Sys2Proof

/-- A row hits only words of its own operation (30_encoding R73, R74). -/
theorem hits_eq_fieldOp_and_hits (w : Word) : ∀ r ∈ opcodeTable,
    r.hits w = (fieldOp r.matchWord == fieldOp w && r.hits w) := by
  intro r hr
  have hmask : fieldOp r.maskWord = 0xF#4 := by
    revert r
    simp [opcodeTable, fieldOp]
  by_cases hop : fieldOp r.matchWord = fieldOp w
  · simp [hop]
  · simp [OpcodeRow.hits, and_ne_of_fieldOp_ne hmask hop]

/-- The decoder takes the first row of the word's operation, if the word lies in its pattern (30_encoding R76). -/
theorem decode_eq_of_row {w : Word} {r : OpcodeRow}
    (hrow : opcodeTable.find? (fun r => fieldOp r.matchWord == fieldOp w) = some r) (hhits : r.hits w = true) :
    decode w = some (r.build w) := by
  have hfind : opcodeTable.find? (·.hits w) = some r := by
    rw [List.find?_congr (hits_eq_fieldOp_and_hits w)]
    rw [List.find?_eq_some_iff_append] at hrow ⊢
    obtain ⟨hop, before, after, htable, hbefore⟩ := hrow
    refine ⟨by rw [hop, hhits]; rfl, before, after, htable, fun a ha => ?_⟩
    rw [Bool.not_and, hbefore a ha, Bool.true_or]
  rw [decode, decodeWord, hfind]
  rfl

/-- A command whose row is `r`, and whose word holds its operands where `r` reads them, is decoded from its word. -/
theorem decode_encode_of_row {i : Instr} (r : OpcodeRow) {op : BitVec 4} (hop : fieldOp (encode i) = op)
    (hrow : opcodeTable.find? (fun r => fieldOp r.matchWord == op) = some r)
    (hpattern : encode i &&& r.maskWord = r.matchWord) (hbuild : r.build (encode i) = i) : decode (encode i) = some i := by
  rw [decode_eq_of_row (r := r) (hop ▸ hrow) (beq_iff_eq.mpr hpattern), hbuild]

/-- Every command is decoded from its own word (30_encoding R74). -/
theorem decode_encode (i : Instr) : decode (encode i) = some i := by
  cases i with
  | nop => rfl
  | clear => rfl
  | cfgAlpha idx d =>
    exact decode_encode_of_row opcodeTable[2] (fieldOp_cmd32 ..) rfl (Laws.WordInPattern.cfgAlpha idx d)
      (congrArg₂ Instr.cfgAlpha (fieldIdx_cmd32 ..) (fieldD_cmd32 ..))
  | cfgDefault => rfl
  | encStart p =>
    exact decode_encode_of_row opcodeTable[4] (fieldOp_cmd32 ..) rfl (Laws.WordInPattern.encStart p)
      (congrArg Instr.encStart (fieldP_cmd32 ..))
  | encByte d =>
    exact decode_encode_of_row opcodeTable[5] (fieldOp_cmd32 ..) rfl (Laws.WordInPattern.encByte d)
      (congrArg Instr.encByte (fieldD_cmd32 ..))
  | encFinish => rfl
  | decStart => rfl
  | decChar d =>
    exact decode_encode_of_row opcodeTable[8] (fieldOp_cmd32 ..) rfl (Laws.WordInPattern.decChar d)
      (congrArg Instr.decChar (fieldD_cmd32 ..))
  | decFinish => rfl

end Sys2Proof
end

section
/-! SUPPORT. What one command does, case by case, and what follows for every command: the effect a command has is one
of the constructors of `Effect`, each with the next state written in the named updates. -/

namespace Sys2Proof.Machine

/-- The effects of a command `i` performed in the state `s`: one constructor per way it can go, with the state it leaves.
`exec_effect` says that these are all of them. -/
inductive Effect (s : State) : Instr → State → Prop
  /-- NOP (43_control R170). -/
  | nop : Effect s .nop s
  /-- CLEAR, which closes an open frame as aborted (43_control R171). -/
  | clear : Effect s .clear (clearCapture (clearDec (clearEnc (setPad false (setMode .idle
      (emit (if s.mode = .idle then [] else [.endFrame .aborted]) s))))))
  /-- A command the legality table does not allow in the mode (60_exceptions R204, R210). -/
  | sequence {i : Instr} (hlegal : legal i s.mode = false) : Effect s i (raiseSequence (encode i) s)
  /-- A START under an invalid alphabet (60_exceptions R202). -/
  | configMismatch {i : Instr} (hstart : (∃ p, i = .encStart p) ∨ i = .decStart) (hvalid : cfgValid s.alpha = false) :
      Effect s i (raiseConfigMismatch (encode i) s)
  /-- CFG_ALPHA (40_configuration R100). -/
  | cfgAlpha (idx : SymVal) (d : Byte) (hm : s.mode = .idle) :
      Effect s (.cfgAlpha idx d) (setAlpha (setEntry s.alpha idx d) s)
  /-- CFG_DEFAULT (40_configuration R102). -/
  | cfgDefault (hm : s.mode = .idle) : Effect s .cfgDefault (setAlpha Config.defaultAlphabet s)
  /-- ENC_START (41_encoder R120). -/
  | encStart (p : Bool) (hm : s.mode = .idle) (hvalid : cfgValid s.alpha = true) :
      Effect s (.encStart p) (clearEnc (setPad p (setMode .enc s)))
  /-- ENC_BYTE, with `r` what its loop answers (41_encoder R121). -/
  | encByte (d : Byte) (hm : s.mode = .enc) {r : List Byte × BitVec 12 × Nat}
      (hr : r = drain s.alpha (s.encRs.toNat + 8) ((s.encAcc <<< 8) ||| d.setWidth 12)) :
      Effect s (.encByte d) (setEnc r.2.1 (BitVec.ofNat 4 r.2.2) (BitVec.ofNat 3 ((s.encCnt5.toNat + 1) % 5))
        (emit (r.1.map .data) s))
  /-- ENC_FINISH (41_encoder R130). -/
  | encFinish (hm : s.mode = .enc) : Effect s .encFinish
      (clearEnc (setPad false (setMode .idle (emit (finalSymbol s ++ padding s ++ [.endFrame .ok]) s))))
  /-- DEC_START (42_decoder R140). -/
  | decStart (hm : s.mode = .idle) (hvalid : cfgValid s.alpha = true) :
      Effect s .decStart (clearDec (setMode .dec s))
  /-- DEC_CHAR with the first character of a held run (42_decoder R150). -/
  | holdFirst {d : Byte} (hm : s.mode = .dec) (ht : inTrim d = true) (hh : s.decHeld = false) :
      Effect s (.decChar d) (setDecPos (s.decPos + 1#32) (setHeld true d s.decPos s))
  /-- DEC_CHAR with a later character of a held run (42_decoder R150). -/
  | holdLater {d : Byte} (hm : s.mode = .dec) (ht : inTrim d = true) (hh : s.decHeld = true) :
      Effect s (.decChar d) (setDecPos (s.decPos + 1#32) s)
  /-- DEC_CHAR that shows a held run not to be trailing (42_decoder R151). -/
  | heldNotTrailing {d : Byte} (hm : s.mode = .dec) (ht : inTrim d = false) (hh : s.decHeld = true) :
      Effect s (.decChar d) (raiseInvalidSymbol s.decHchar s.decHpos (encode (.decChar d)) s)
  /-- DEC_CHAR with a character that maps to no symbol (42_decoder R152). -/
  | unmapped {d : Byte} (hm : s.mode = .dec) (ht : inTrim d = false) (hh : s.decHeld = false)
      (hv : symbolMap s.alpha d = none) :
      Effect s (.decChar d) (raiseInvalidSymbol d s.decPos (encode (.decChar d)) s)
  /-- DEC_CHAR with a symbol that completes a byte (42_decoder R147, R148). -/
  | symbolByte {d : Byte} {v : SymVal} {buf : BitVec 12} {n : Nat} (hm : s.mode = .dec) (ht : inTrim d = false)
      (hh : s.decHeld = false) (hv : symbolMap s.alpha d = some v) (hbuf : buf = (s.decBuf <<< 5) ||| v.setWidth 12)
      (hn : s.decBs.toNat + 5 = n + 8) :
      Effect s (.decChar d) (setDecPos (s.decPos + 1#32)
        (setDecBits (lowBits buf n) (BitVec.ofNat 4 n) (emit [.data (byteWindow buf n)] s)))
  /-- DEC_CHAR with a symbol that completes no byte (42_decoder R147). -/
  | symbolBits {d : Byte} {v : SymVal} (hm : s.mode = .dec) (ht : inTrim d = false) (hh : s.decHeld = false)
      (hv : symbolMap s.alpha d = some v) (hbs : s.decBs.toNat + 5 ≤ 7) :
      Effect s (.decChar d) (setDecPos (s.decPos + 1#32)
        (setDecBits ((s.decBuf <<< 5) ||| v.setWidth 12) (BitVec.ofNat 4 (s.decBs.toNat + 5)) s))
  /-- DEC_CHAR after an error (42_decoder R155). -/
  | ignored (d : Byte) (hm : s.mode = .decErr) : Effect s (.decChar d) s
  /-- DEC_FINISH (42_decoder R157). -/
  | decFinish {st : EndStatus} (hm : s.mode = .dec ∧ st = .ok ∨ s.mode = .decErr ∧ st = .invalid) :
      Effect s .decFinish (closeDec st s)

@[simp] theorem closeDec_eq (st : EndStatus) (s : State) :
    closeDec st s = clearDec (setMode .idle (emit [.endFrame st] s)) := rfl

/-- DEC_CHAR in mode DEC has one of its six effects (42_decoder R145, R150 to R152). -/
theorem feedChar_effect (d : Byte) {s : State} (hm : s.mode = .dec) : Effect s (.decChar d) (feedChar d s) := by
  unfold feedChar
  split
  next ht =>
    unfold holdChar
    split
    next hh => exact .holdLater hm ht hh
    next hh => exact .holdFirst hm ht (by simpa using hh)
  next ht =>
    have ht : inTrim d = false := by simpa using ht
    split
    next hh => exact .heldNotTrailing hm ht hh
    next hh =>
      have hh : s.decHeld = false := by simpa using hh
      split
      next hv => exact .unmapped hm ht hh hv
      next v hv =>
        unfold acceptSymbol
        dsimp only
        split
        next hbs => exact .symbolByte hm ht hh hv rfl (by omega)
        next hbs => exact .symbolBits hm ht hh hv (by omega)

/-- A START in mode IDLE under a valid alphabet starts; else it raises its error (60_exceptions R211). -/
theorem execStart_effect {i : Instr} {s started t : State} (hstart : (∃ p, i = .encStart p) ∨ i = .decStart)
    (hok : s.mode = .idle → cfgValid s.alpha = true → Effect s i started)
    (h : (if s.mode ≠ .idle then .next (raiseSequence (encode i) s)
      else if cfgValid s.alpha = false then .next (raiseConfigMismatch (encode i) s)
      else .next started : Host.Outcome State Fault Refusal) = .next t) : Effect s i t := by
  split at h
  next hm =>
    cases h
    refine .sequence ?_
    obtain ⟨p, rfl⟩ | rfl := hstart <;> simpa [legal] using hm
  next hm =>
    split at h
    next hvalid =>
      cases h
      exact .configMismatch hstart hvalid
    next hvalid =>
      cases h
      exact hok (by simpa using hm) (by simpa using hvalid)

/-- What a command does is one of its effects. -/
theorem exec_effect {i : Instr} {s t : State} (h : exec i s = .next t) : Effect s i t := by
  cases i with
  | nop =>
    cases h
    exact .nop
  | clear =>
    have hclosed : (if s.mode = .idle then s else emit [.endFrame .aborted] s)
        = emit (if s.mode = .idle then [] else [.endFrame .aborted]) s := by
      split <;> simp [emit]
    simp only [exec, execClear, hclosed, Host.Outcome.next.injEq] at h
    exact h ▸ .clear
  | cfgAlpha idx d =>
    simp only [exec, execCfgAlpha] at h
    split at h <;> cases h
    next hm => exact .cfgAlpha idx d hm
    next hm => exact .sequence (by simpa [legal] using hm)
  | cfgDefault =>
    simp only [exec, execCfgDefault] at h
    split at h <;> cases h
    next hm => exact .cfgDefault hm
    next hm => exact .sequence (by simpa [legal] using hm)
  | encStart p => exact execStart_effect (.inl ⟨p, rfl⟩) (.encStart p) h
  | encByte d =>
    simp only [exec, execEncByte] at h
    split at h <;> cases h
    next hm => exact .sequence (by simpa [legal] using hm)
    next hm => exact .encByte d (by simpa using hm) rfl
  | encFinish =>
    simp only [exec, execEncFinish] at h
    split at h <;> cases h
    next hm => exact .sequence (by simpa [legal] using hm)
    next hm => exact .encFinish (by simpa using hm)
  | decStart => exact execStart_effect (.inr rfl) .decStart h
  | decChar d =>
    simp only [exec, execDecChar] at h
    split at h <;> cases h
    next hm => exact feedChar_effect d hm
    next hm => exact .ignored d hm
    all_goals
      next hm => exact .sequence (by simp [legal, hm])
  | decFinish =>
    simp only [exec, execDecFinish] at h
    split at h <;> cases h
    next hm => exact .decFinish (.inl ⟨hm, rfl⟩)
    next hm => exact .decFinish (.inr ⟨hm, rfl⟩)
    all_goals
      next hm => exact .sequence (by simp [legal, hm])

/-- Every command leaves the outside ends of the ports as they are. -/
theorem Effect.samePorts {i : Instr} {s t : State} (h : Effect s i t) : SamePorts s t := by
  cases h <;> simp [SamePorts]

/-- Every command only appends to OUT (10_state R36). -/
theorem Effect.out_grows {i : Instr} {s t : State} (h : Effect s i t) : s.out <+: t.out := by
  cases h <;> simp

/-- A command that changes ALPHA is a configuration command in IDLE, and changes nothing else (10_state R25). -/
theorem Effect.of_alpha_ne {i : Instr} {s t : State} (h : Effect s i t) (hne : t.alpha ≠ s.alpha) :
    s.mode = .idle ∧ t = setAlpha t.alpha s ∧ (i = .cfgDefault ∨ ∃ idx d, i = .cfgAlpha idx d) := by
  cases h with
  | cfgAlpha idx d hm => exact ⟨hm, rfl, .inr ⟨idx, d, rfl⟩⟩
  | cfgDefault hm => exact ⟨hm, rfl, .inl rfl⟩
  | _ => simp at hne

/-- Every word leaves the outside ends of the ports as they are. -/
theorem performWord_samePorts {w : Word} {s t : State} (h : performWord w s = .next t) : SamePorts s t := by
  obtain ⟨i, -, hi⟩ | ⟨-, rfl⟩ := performWord_cases h
  · exact (exec_effect hi).samePorts
  · simp [SamePorts]

/-- Every word only appends to OUT (10_state R36). -/
theorem performWord_out_grows {w : Word} {s t : State} (h : performWord w s = .next t) : s.out <+: t.out := by
  obtain ⟨i, -, hi⟩ | ⟨-, rfl⟩ := performWord_cases h
  · exact (exec_effect hi).out_grows
  · simp

end Sys2Proof.Machine
end

section
/-! SUPPORT. What one step does to the elements of the block, and the induction step of every invariant that speaks of
these elements alone. -/

namespace Sys2Proof.Machine

/-- The elements of the block alone (10_state R23): the outside ends of the ports are blanked. -/
def blockOf (s : State) : State := { s with taken := 0, sink := [], cmdPort := [], inbox := [], reads := [] }

@[simp] theorem blockOf_alpha (s : State) : (blockOf s).alpha = s.alpha := rfl
@[simp] theorem blockOf_out (s : State) : (blockOf s).out = s.out := rfl

@[simp] theorem blockOf_takeItem (s : State) : blockOf (takeItem s) = blockOf s := by
  unfold takeItem
  split <;> rfl

theorem blockOf_assertReset (s : State) : blockOf (assertReset s) = blockOf State.reset := rfl

/-- The block's turn performs the word at the head of the command port, or leaves the block as it is. -/
theorem takeTurn_block {s t : State} (h : takeTurn s = .next t) :
    blockOf t = blockOf s
    ∨ ∃ w later, s.cmdPort = w :: later ∧ performWord w { s with cmdPort := later } = .next t := by
  obtain ⟨-, rfl⟩ | ⟨w, later, u, hport, hu, ⟨-, rfl⟩ | ⟨-, rfl⟩⟩ := takeTurn_cases h
  · exact .inl rfl
  · exact .inr ⟨w, later, hport, hu⟩
  · exact .inl rfl

/-- What a step does to the block: a reset, or nothing, or it performs the word at the head of the command port
(70_reset_and_hazards R249). -/
theorem step_block {s t : State} (h : step s = .next t) :
    (∃ rest, s.inbox = .reset :: rest ∧ t = assertReset { s with inbox := rest })
    ∨ blockOf t = blockOf s
    ∨ ∃ rest w later, s.cmdPort = w :: later
        ∧ performWord w { s with inbox := rest, cmdPort := later } = .next t := by
  obtain ⟨-, h⟩ | ⟨a, rest, hinbox, h⟩ := step_cases h
  · exact .inr ((takeTurn_block h).imp_right fun hw => ⟨s.inbox, hw⟩)
  · cases a with
    | turn => exact .inr ((takeTurn_block h).imp_right fun hw => ⟨rest, hw⟩)
    | send w =>
      cases h
      exact .inr (.inl rfl)
    | read r =>
      cases h
      exact .inr (.inl rfl)
    | take =>
      cases h
      exact .inr (.inl (blockOf_takeItem _))
    | reset =>
      cases h
      exact .inl ⟨rest, hinbox, rfl⟩

/-- A predicate on the elements of the block that holds after reset, and that every command and the record of an illegal
word keep. -/
structure BlockInvariant (P : State → Prop) : Prop where
  block_only : ∀ s, P (blockOf s) ↔ P s
  reset : P State.reset
  illegal : ∀ {w s}, decode w = none → P s → P (raiseIllegal w s)
  command : ∀ {i s t}, Effect s i t → P s → P t

/-- A predicate on the block holds of one of two states with the same block when it holds of the other. -/
theorem BlockInvariant.iff_of_blockOf_eq {P : State → Prop} (hP : BlockInvariant P) {s t : State}
    (h : blockOf t = blockOf s) : P t ↔ P s := by
  rw [← hP.block_only t, h, hP.block_only]

/-- Every step keeps an invariant of the block. -/
theorem BlockInvariant.step {P : State → Prop} (hP : BlockInvariant P) {s t : State} (hs : P s)
    (h : step s = .next t) : P t := by
  obtain ⟨rest, -, rfl⟩ | hblock | ⟨rest, w, later, -, hw⟩ := step_block h
  · exact (hP.iff_of_blockOf_eq (blockOf_assertReset _)).mpr hP.reset
  · exact (hP.iff_of_blockOf_eq hblock).mpr hs
  · have hs' : P { s with inbox := rest, cmdPort := later } := (hP.iff_of_blockOf_eq (by rfl)).mpr hs
    obtain ⟨i, -, hi⟩ | ⟨hn, rfl⟩ := performWord_cases hw
    · exact hP.command (exec_effect hi) hs'
    · exact hP.illegal hn hs'

end Sys2Proof.Machine
end

section
/-! SUPPORT. The bit buffers of the encoder and the decoder: how many bits they hold after a value is shifted in, and
after the loop of ENC_BYTE. -/

namespace Sys2Proof.Machine

/-- Shifting `n` bits into a 12-bit buffer that has room for them (41_encoder R121, 42_decoder R147). -/
theorem toNat_shiftIn {n : Nat} (v : BitVec 12) (d : BitVec n) (hn : n ≤ 12) (hv : v.toNat < 2 ^ (12 - n)) :
    ((v <<< n) ||| d.setWidth 12).toNat = v.toNat * 2 ^ n + d.toNat := by
  have hpow : 2 ^ (12 - n) * 2 ^ n = 2 ^ 12 := by rw [← pow_add, Nat.sub_add_cancel hn]
  have hshift : v.toNat * 2 ^ n < 2 ^ 12 := hpow ▸ Nat.mul_lt_mul_of_pos_right hv (Nat.two_pow_pos n)
  have hd : d.toNat < 2 ^ 12 := d.isLt.trans_le (Nat.pow_le_pow_right (by omega) hn)
  rw [BitVec.toNat_or, BitVec.toNat_shiftLeft, BitVec.toNat_setWidth, Nat.mod_eq_of_lt hd, Nat.shiftLeft_eq,
    Nat.mod_eq_of_lt hshift, ← Nat.shiftLeft_eq, Nat.shiftLeft_add_eq_or_of_lt d.isLt]

/-- A buffer of `k` bits holds `k + n` bits after `n` bits are shifted in. -/
theorem shiftIn_lt {k n : Nat} {v : BitVec 12} (d : BitVec n) (hv : v.toNat < 2 ^ k) (hk : k + n ≤ 12) :
    ((v <<< n) ||| d.setWidth 12).toNat < 2 ^ (k + n) := by
  have hroom : v.toNat < 2 ^ (12 - n) := hv.trans_le (Nat.pow_le_pow_right (by omega) (by omega))
  rw [toNat_shiftIn v d (by omega) hroom, pow_add]
  calc v.toNat * 2 ^ n + d.toNat < v.toNat * 2 ^ n + 2 ^ n := Nat.add_lt_add_left d.isLt _
    _ = (v.toNat + 1) * 2 ^ n := (Nat.succ_mul ..).symm
    _ ≤ 2 ^ k * 2 ^ n := Nat.mul_le_mul_right _ hv

/-- Keeping the low `n` bits leaves `n` bits. -/
theorem lowBits_lt (v : BitVec 12) {n : Nat} (hn : n ≤ 12) : (lowBits v n).toNat < 2 ^ n := by
  rw [toNat_lowBits v n hn]
  exact Nat.mod_lt _ (Nat.two_pow_pos n)

/-- The loop of ENC_BYTE leaves in the buffer only the bits it has not taken (41_encoder R124). -/
theorem drain_lt (A : Alphabet) (rs : Nat) : ∀ acc : BitVec 12, rs ≤ 12 → acc.toNat < 2 ^ rs →
    (drain A rs acc).2.1.toNat < 2 ^ (rs % 5) := by
  induction rs using Nat.strongRecOn with
  | _ rs ih =>
    intro acc hrs hacc
    by_cases h : rs ≤ 4
    · rwa [drain_of_le A rs acc h, Nat.mod_eq_of_lt (by omega)]
    · obtain ⟨r, rfl⟩ : ∃ r, rs = r + 5 := ⟨rs - 5, by omega⟩
      rw [drain_add_five, Nat.add_mod_right]
      exact ih r (by omega) (lowBits acc r) (by omega) (lowBits_lt acc (by omega))

end Sys2Proof.Machine
end

section
/-! SUPPORT. `FrameInv` in two halves, the encoder's registers and the decoder's, with the two ways in which most effects
keep a half: they leave its registers alone, or they clear them. -/

namespace Sys2Proof.Machine

/-- The half of `FrameInv` about the encoder's registers and PAD (10_state R48). -/
structure EncoderInv (s : State) : Prop where
  encRs_le : s.encRs.toNat ≤ 4
  encAcc_lt : s.encAcc.toNat < 2 ^ s.encRs.toNat
  encCnt5_le : s.encCnt5.toNat ≤ 4
  encRs_eq : s.encRs.toNat = 3 * s.encCnt5.toNat % 5
  encoder_idle : s.mode ≠ .enc → s.encAcc = 0#12 ∧ s.encRs = 0#4 ∧ s.encCnt5 = 0#3 ∧ s.pad = false

/-- The half of `FrameInv` about the decoder's registers (10_state R48). -/
structure DecoderInv (s : State) : Prop where
  decBs_le : s.decBs.toNat ≤ 7
  decBuf_lt : s.decBuf.toNat < 2 ^ s.decBs.toNat
  decoder_idle : s.mode ≠ .dec ∧ s.mode ≠ .decErr →
    s.decBuf = 0#12 ∧ s.decBs = 0#4 ∧ s.decPos = 0#32 ∧ s.decHeld = false ∧ s.decHchar = 0#8 ∧ s.decHpos = 0#32
  held_clear : s.decHeld = false → s.decHchar = 0#8 ∧ s.decHpos = 0#32

theorem frameInv_iff (s : State) : FrameInv s ↔ EncoderInv s ∧ DecoderInv s := by
  constructor
  · rintro ⟨rsLe, accLt, cntLe, rsEq, bsLe, bufLt, encIdle, decIdle, heldClear⟩
    exact ⟨⟨rsLe, accLt, cntLe, rsEq, encIdle⟩, bsLe, bufLt, decIdle, heldClear⟩
  · rintro ⟨⟨rsLe, accLt, cntLe, rsEq, encIdle⟩, bsLe, bufLt, decIdle, heldClear⟩
    exact ⟨rsLe, accLt, cntLe, rsEq, bsLe, bufLt, encIdle, decIdle, heldClear⟩

/-- The encoder's half speaks of the encoder's registers, and of MODE only in whether an encode frame is active. -/
theorem EncoderInv.of_same {s t : State} (hs : EncoderInv s) (hsame : SameEncoder s t)
    (hmode : t.mode ≠ .enc → s.mode ≠ .enc) : EncoderInv t := by
  obtain ⟨hacc, hrs, hcnt, hpad⟩ := hsame
  obtain ⟨rsLe, accLt, cntLe, rsEq, idle⟩ := hs
  rw [← hrs] at rsLe accLt rsEq idle
  rw [← hacc] at accLt idle
  rw [← hcnt] at cntLe rsEq idle
  rw [← hpad] at idle
  exact ⟨rsLe, accLt, cntLe, rsEq, fun hm => idle (hmode hm)⟩

/-- Cleared encoder registers meet the encoder's half. -/
theorem encoderInv_of_clear {t : State} (hacc : t.encAcc = 0#12) (hrs : t.encRs = 0#4) (hcnt : t.encCnt5 = 0#3)
    (hpad : t.mode ≠ .enc → t.pad = false) : EncoderInv t :=
  ⟨by simp [hrs], by simp [hrs, hacc], by simp [hcnt], by simp [hrs, hcnt], fun hm => ⟨hacc, hrs, hcnt, hpad hm⟩⟩

/-- The decoder's half speaks of the decoder's registers, and of MODE only in whether a decode frame is active. -/
theorem DecoderInv.of_same {s t : State} (hs : DecoderInv s) (hsame : SameDecoder s t)
    (hmode : t.mode ≠ .dec ∧ t.mode ≠ .decErr → s.mode ≠ .dec ∧ s.mode ≠ .decErr) : DecoderInv t := by
  obtain ⟨hbuf, hbs, hpos, hheld, hchar, hhpos⟩ := hsame
  obtain ⟨bsLe, bufLt, idle, heldClear⟩ := hs
  rw [← hbs] at bsLe bufLt idle
  rw [← hbuf] at bufLt idle
  rw [← hpos] at idle
  rw [← hheld, ← hchar, ← hhpos] at idle heldClear
  exact ⟨bsLe, bufLt, fun hm => idle (hmode hm), heldClear⟩

/-- Cleared decoder registers meet the decoder's half. -/
theorem decoderInv_of_clear {t : State} (hbuf : t.decBuf = 0#12) (hbs : t.decBs = 0#4) (hpos : t.decPos = 0#32)
    (hheld : t.decHeld = false) (hchar : t.decHchar = 0#8) (hhpos : t.decHpos = 0#32) : DecoderInv t :=
  ⟨by simp [hbs], by simp [hbs, hbuf], fun _ => ⟨hbuf, hbs, hpos, hheld, hchar, hhpos⟩, fun _ => ⟨hchar, hhpos⟩⟩

/-- In mode DEC the decoder's half holds when the buffer is given with its number of bits (42_decoder R147). -/
theorem decoderInv_of_bits {t : State} {n : Nat} (hn : n ≤ 7) (hbs : t.decBs = BitVec.ofNat 4 n)
    (hbuf : t.decBuf.toNat < 2 ^ n) (hmode : t.mode = .dec)
    (hheld : t.decHeld = false → t.decHchar = 0#8 ∧ t.decHpos = 0#32) : DecoderInv t := by
  have hcount : t.decBs.toNat = n := by
    rw [hbs, BitVec.toNat_ofNat]
    omega
  exact ⟨hcount ▸ hn, hcount ▸ hbuf, fun hm => absurd hmode hm.1, hheld⟩

/-- ENC_BYTE keeps the encoder's half: 8 bits come in, 3 more than a multiple of 5 (41_encoder R121, R126). -/
theorem encoderInv_encByte {s t : State} {d : Byte} (hs : EncoderInv s)
    (hacc : t.encAcc = (drain s.alpha (s.encRs.toNat + 8) ((s.encAcc <<< 8) ||| d.setWidth 12)).2.1)
    (hrs : t.encRs.toNat = (s.encRs.toNat + 8) % 5) (hcnt : t.encCnt5.toNat = (s.encCnt5.toNat + 1) % 5)
    (hmode : t.mode = .enc) : EncoderInv t := by
  obtain ⟨rsLe, accLt, cntLe, rsEq, -⟩ := hs
  refine ⟨by omega, ?_, by omega, by omega, fun hne => absurd hmode hne⟩
  rw [hacc, hrs]
  exact drain_lt _ _ _ (by omega) (shiftIn_lt d accLt (by omega))

/-- Every effect keeps the encoder's half. -/
theorem Effect.encoderInv {i : Instr} {s t : State} (h : Effect s i t) (hs : EncoderInv s) : EncoderInv t := by
  have hrsLe := hs.encRs_le
  have hcntLe := hs.encCnt5_le
  cases h with
  | clear | encFinish | encStart => exact encoderInv_of_clear (by simp) (by simp) (by simp) (by simp)
  | encByte d hm hr =>
    obtain ⟨hleft, -⟩ := drain_spec s.alpha (s.encRs.toNat + 8) ((s.encAcc <<< 8) ||| d.setWidth 12)
    refine encoderInv_encByte hs (d := d) (by simp [hr]) ?_ ?_ hm
    · rw [setEnc_encRs, BitVec.toNat_ofNat, hr, hleft]
      omega
    · rw [setEnc_encCnt5, BitVec.toNat_ofNat]
      omega
  | decStart hm | heldNotTrailing hm | unmapped hm => exact hs.of_same (by simp [SameEncoder]) (by simp [hm])
  | decFinish hm =>
    have hne : s.mode ≠ .enc := by rcases hm with ⟨hm, -⟩ | ⟨hm, -⟩ <;> simp [hm]
    exact hs.of_same (by simp [SameEncoder]) (by simp [hne])
  | _ => exact hs.of_same (by simp [SameEncoder]) (by simp)

/-- Every effect keeps the decoder's half. -/
theorem Effect.decoderInv {i : Instr} {s t : State} (h : Effect s i t) (hs : DecoderInv s) : DecoderInv t := by
  have hbsLe := hs.decBs_le
  cases h with
  | clear | decStart | decFinish =>
    exact decoderInv_of_clear (by simp) (by simp) (by simp) (by simp) (by simp) (by simp)
  | holdFirst hm => exact ⟨hs.decBs_le, hs.decBuf_lt, by simp [hm], by simp⟩
  | holdLater hm _ hh => exact ⟨hs.decBs_le, hs.decBuf_lt, by simp [hm], by simp [hh]⟩
  | @symbolByte d v buf n hm _ _ _ _ hn =>
    exact decoderInv_of_bits (n := n) (by omega) (by simp) (lowBits_lt buf (by omega)) hm hs.held_clear
  | @symbolBits d v hm _ _ _ hbs =>
    exact decoderInv_of_bits hbs (by simp) (shiftIn_lt v hs.decBuf_lt (by omega)) hm hs.held_clear
  | encStart _ hm | encFinish hm | heldNotTrailing hm | unmapped hm =>
    exact hs.of_same (by simp [SameDecoder]) (by simp [hm])
  | _ => exact hs.of_same (by simp [SameDecoder]) (by simp)

/-- `FrameInv` speaks of MODE and the frame registers alone. -/
theorem FrameInv.of_same {s t : State} (hs : FrameInv s) (hmode : t.mode = s.mode) (henc : SameEncoder s t)
    (hdec : SameDecoder s t) : FrameInv t := by
  obtain ⟨hse, hsd⟩ := (frameInv_iff s).mp hs
  exact (frameInv_iff t).mpr ⟨hse.of_same henc (by simp [hmode]), hsd.of_same hdec (by simp [hmode])⟩

/-- `FrameInv` is an invariant of the block. -/
theorem frameInv_blockInvariant : BlockInvariant FrameInv where
  block_only s := ⟨fun h => h.of_same rfl ⟨rfl, rfl, rfl, rfl⟩ ⟨rfl, rfl, rfl, rfl, rfl, rfl⟩,
    fun h => h.of_same rfl ⟨rfl, rfl, rfl, rfl⟩ ⟨rfl, rfl, rfl, rfl, rfl, rfl⟩⟩
  reset := (frameInv_iff _).mpr ⟨encoderInv_of_clear rfl rfl rfl fun _ => rfl, decoderInv_of_clear rfl rfl rfl rfl rfl rfl⟩
  illegal _ hs := hs.of_same (by simp) (by simp [SameEncoder]) (by simp [SameDecoder])
  command {i s t} h hs := by
    obtain ⟨henc, hdec⟩ := (frameInv_iff s).mp hs
    exact (frameInv_iff t).mpr ⟨h.encoderInv henc, h.decoderInv hdec⟩

/-- Settles O44: `FrameInv` is an invariant of the block, its two halves kept by every effect of a command. -/
theorem stepKeepsFrameInv : Obligations.StepKeepsFrameInv :=
  fun _ _ hs h => frameInv_blockInvariant.step hs h

end Sys2Proof.Machine
end

section
/-! SUPPORT. The error capture: what keeps `CaptureInv`, and what Record makes of it. -/

namespace Sys2Proof.Machine

section CapturedWord
variable {s : State}

theorem capturedWord_of_none (hcode : s.errCode = .none) (hcmd : s.errCmd = 0#32) : CapturedWord s := by
  simpa [CapturedWord, hcode] using hcmd

theorem capturedWord_of_invalidSymbol (hcode : s.errCode = .invalidSymbol) {d : Byte}
    (hcmd : s.errCmd = encode (.decChar d)) : CapturedWord s := by
  simp [CapturedWord, hcode, hcmd, decode_encode]

theorem capturedWord_of_configMismatch (hcode : s.errCode = .configMismatch) {i : Instr}
    (hstart : (∃ p, i = .encStart p) ∨ i = .decStart) (hcmd : s.errCmd = encode i) : CapturedWord s := by
  simpa [CapturedWord, hcode, hcmd, decode_encode] using hstart

theorem capturedWord_of_sequence (hcode : s.errCode = .sequence) {i : Instr} {m : Mode} (hlegal : legal i m = false)
    (hcmd : s.errCmd = encode i) : CapturedWord s := by
  have hi : i ≠ .nop ∧ i ≠ .clear := by constructor <;> (rintro rfl; simp [legal] at hlegal)
  simpa [CapturedWord, hcode, hcmd, decode_encode] using hi

theorem capturedWord_of_illegalCmd (hcode : s.errCode = .illegalCmd) (hcmd : decode s.errCmd = none) :
    CapturedWord s := by
  simpa [CapturedWord, hcode] using hcmd

end CapturedWord

/-- Whether the word fits depends on the captured code and word alone. -/
theorem capturedWord_congr {s t : State} (hcode : t.errCode = s.errCode) (hcmd : t.errCmd = s.errCmd) :
    CapturedWord t ↔ CapturedWord s := by
  unfold CapturedWord
  rw [hcode, hcmd]

/-- The invariant speaks of the error capture, and of MODE only in whether a decode frame has failed. -/
theorem CaptureInv.of_same {s t : State} (hs : CaptureInv s) (hsame : SameCapture s t)
    (hmode : t.mode = .decErr → s.mode = .decErr) : CaptureInv t := by
  obtain ⟨hcode, hovf, hchar, hpos, hcmd⟩ := hsame
  obtain ⟨overflow, charPos, word, failed⟩ := hs
  rw [← capturedWord_congr hcode hcmd] at word
  rw [← hcode] at overflow charPos failed
  rw [← hovf] at overflow
  rw [← hchar, ← hpos] at charPos
  exact ⟨overflow, charPos, word, fun hm => failed (hmode hm)⟩

/-- Record keeps the invariant when what it would capture is consistent, in whatever mode the frame goes on
(60_exceptions R205). -/
theorem CaptureInv.setMode_record {code : ErrCode} {ch : Byte} {pos : BitVec 32} {cmd : Word} {s : State} (m : Mode)
    (hs : CaptureInv s) (hcode : code ≠ .none) (hcharPos : code ≠ .invalidSymbol → ch = 0#8 ∧ pos = 0#32)
    (hword : ∀ u : State, u.errCode = code → u.errCmd = cmd → CapturedWord u) :
    CaptureInv (setMode m (record code ch pos cmd s)) := by
  obtain ⟨-, hrec⟩ | ⟨hcaptured, hrec⟩ := record_cases code ch pos cmd s <;> rw [hrec]
  · exact ⟨fun _ => hcode, hcharPos, hword _ rfl rfl, fun _ => hcode⟩
  · exact ⟨fun _ => hcaptured, hs.char_pos_clear, hs.word_fits, fun _ => hcaptured⟩

/-- Record of an error without a character keeps the invariant when the word fits the error. -/
theorem CaptureInv.record {code : ErrCode} {cmd : Word} {s : State} (hs : CaptureInv s) (hcode : code ≠ .none)
    (hword : ∀ u : State, u.errCode = code → u.errCmd = cmd → CapturedWord u) :
    CaptureInv (record code 0#8 0#32 cmd s) := by
  have hsame := hs.setMode_record s.mode hcode (ch := 0#8) (pos := 0#32) (fun _ => ⟨rfl, rfl⟩) hword
  exact hsame.of_same ⟨rfl, rfl, rfl, rfl, rfl⟩ (by simp)

/-- raise InvalidSymbol by a DEC_CHAR keeps the invariant (60_exceptions R201). -/
theorem CaptureInv.raiseInvalidSymbol {s : State} (hs : CaptureInv s) (ch : Byte) (pos : BitVec 32) (d : Byte) :
    CaptureInv (raiseInvalidSymbol ch pos (encode (.decChar d)) s) :=
  hs.setMode_record .decErr (by simp) (by simp) fun _ hcode => capturedWord_of_invalidSymbol hcode

/-- A cleared capture is consistent outside a failed frame (43_control R171). -/
theorem captureInv_of_clear {t : State} (hcode : t.errCode = .none) (hovf : t.errOvf = false) (hchar : t.errChar = 0#8)
    (hpos : t.errPos = 0#32) (hcmd : t.errCmd = 0#32) (hmode : t.mode ≠ .decErr) : CaptureInv t :=
  ⟨by simp [hovf], fun _ => ⟨hchar, hpos⟩, capturedWord_of_none hcode hcmd, fun hm => absurd hm hmode⟩

/-- Every effect keeps the capture consistent. -/
theorem Effect.captureInv {i : Instr} {s t : State} (h : Effect s i t) (hs : CaptureInv s) : CaptureInv t := by
  cases h with
  | clear => exact captureInv_of_clear rfl rfl rfl rfl rfl (by simp)
  | sequence hlegal => exact hs.record (by simp) fun _ hcode => capturedWord_of_sequence hcode hlegal
  | configMismatch hstart => exact hs.record (by simp) fun _ hcode => capturedWord_of_configMismatch hcode hstart
  | heldNotTrailing | unmapped => exact hs.raiseInvalidSymbol _ _ _
  | _ => exact hs.of_same (by simp [SameCapture]) (by simp)

/-- `CaptureInv` is an invariant of the block. -/
theorem captureInv_blockInvariant : BlockInvariant CaptureInv where
  block_only s := ⟨fun h => h.of_same ⟨rfl, rfl, rfl, rfl, rfl⟩ id, fun h => h.of_same ⟨rfl, rfl, rfl, rfl, rfl⟩ id⟩
  reset := captureInv_of_clear rfl rfl rfl rfl rfl (by simp [State.reset])
  illegal hw hs := hs.record (by simp) fun _ hcode hcmd => capturedWord_of_illegalCmd hcode (hcmd ▸ hw)
  command h hs := h.captureInv hs

/-- Settles O46: `CaptureInv` is an invariant of the block; each error is captured with a word that raises it. -/
theorem stepKeepsCaptureInv : Obligations.StepKeepsCaptureInv :=
  fun _ _ hs h => captureInv_blockInvariant.step hs h

end Sys2Proof.Machine
end

section
/-! SUPPORT. The held character. -/

namespace Sys2Proof.Machine

/-- A character is held only by DEC_CHAR with a trim-set byte (42_decoder R150). -/
theorem Effect.heldInv {i : Instr} {s t : State} (h : Effect s i t) (hs : HeldInv s) : HeldInv t := by
  unfold HeldInv at hs ⊢
  cases h with
  | holdFirst _ ht => exact fun _ => ht
  | clear | decStart | decFinish => simp
  | _ => simpa using hs

/-- `HeldInv` is an invariant of the block. -/
theorem heldInv_blockInvariant : BlockInvariant HeldInv where
  block_only _ := Iff.rfl
  reset := by simp [HeldInv, State.reset]
  illegal _ hs := by simpa [HeldInv] using hs
  command h hs := h.heldInv hs

/-- Settles O48: `HeldInv` is an invariant of the block. -/
theorem stepKeepsHeldInv : Obligations.StepKeepsHeldInv :=
  fun _ _ hs h => heldInv_blockInvariant.step hs h

end Sys2Proof.Machine
end

section
/-! SUPPORT. MODE, ALPHA and OUT: which steps change them. -/

namespace Sys2Proof.Machine

/-- Settles O38: of the effects of the commands only these change MODE (10_state R24). -/
theorem modeChangesOnlyByItsWriters : Obligations.ModeChangesOnlyByItsWriters := by
  intro i s t h hne
  cases exec_effect h with
  | encStart p hm => exact .inl ⟨hm, rfl, p, rfl⟩
  | decStart hm => exact .inr (.inl ⟨hm, rfl, rfl⟩)
  | encFinish hm => exact .inr (.inr (.inl ⟨hm, rfl, rfl⟩))
  | decFinish hm => exact .inr (.inr (.inr (.inl ⟨hm.imp And.left And.left, rfl, rfl⟩)))
  | heldNotTrailing hm | unmapped hm => exact .inr (.inr (.inr (.inr (.inl ⟨hm, rfl, _, rfl⟩))))
  | clear => exact .inr (.inr (.inr (.inr (.inr ⟨rfl, rfl⟩))))
  | _ => simp at hne

/-- Settles O39: a step that is no reset and changes ALPHA performs a word, and the only effects of a command that change
ALPHA are those of the configuration commands in IDLE. -/
theorem alphabetChangesOnlyInIdle : Obligations.AlphabetChangesOnlyInIdle := by
  intro s t h hnoReset hne
  obtain ⟨rest, hinbox, -⟩ | hblock | ⟨rest, w, later, hport, hw⟩ := step_block h
  · exact absurd hinbox (hnoReset rest)
  · exact absurd (by rw [← blockOf_alpha t, hblock, blockOf_alpha]) hne
  · obtain ⟨-, -, hlater, -, -⟩ := performWord_samePorts hw
    obtain ⟨i, hi, hexec⟩ | ⟨-, rfl⟩ := performWord_cases hw
    · obtain ⟨hm, ht, hcfg⟩ := (exec_effect hexec).of_alpha_ne hne
      refine ⟨hm, ?_, ?_, w, later, hport, hlater, ?_⟩
      · rw [ht]
        exact hm
      · rw [ht]
        rfl
      · obtain rfl | ⟨idx, d, rfl⟩ := hcfg
        · exact .inl hi
        · exact .inr ⟨idx, d, hi⟩
    · simp at hne

/-- Settles O50: a step that is no reset leaves OUT, or performs a word, and every word only appends to it. -/
theorem outOnlyGrowsBetweenResets : Obligations.OutOnlyGrowsBetweenResets := by
  intro s t h hnoReset
  obtain ⟨rest, hinbox, -⟩ | hblock | ⟨rest, w, later, -, hw⟩ := step_block h
  · exact absurd hinbox (hnoReset rest)
  · rw [← blockOf_out t, hblock, blockOf_out]
  · have hgrows := performWord_out_grows hw
    exact hgrows

end Sys2Proof.Machine
end

section
/-! SUPPORT. The register-read map. -/

namespace Sys2Proof.Machine

/-- STATUS stands at address 0 (10_state R39). -/
@[simp] theorem readReg_status (s : State) : readReg s 0#6 = statusWord s := rfl

/-- ALPHA_R[i] stands at address 32 + i (10_state R45). -/
theorem readReg_alpha (s : State) (i : SymVal) :
    readReg s (BitVec.ofNat 6 (32 + i.toNat)) = (entry s.alpha i).setWidth 32 := by
  have hi := i.isLt
  have haddr : (BitVec.ofNat 6 (32 + i.toNat)).toNat = 32 + i.toNat := by
    rw [BitVec.toNat_ofNat]
    omega
  have hidx : (BitVec.ofNat 6 (32 + i.toNat)).setWidth 5 = i := by
    apply BitVec.eq_of_toNat_eq
    rw [BitVec.toNat_setWidth, haddr]
    omega
  rw [readReg, if_pos (by omega), hidx]

/-- The addresses 5 to 31 are reserved and read 0 (10_state R46). -/
theorem readReg_reserved (s : State) {a : RAddr} (hlow : 5 ≤ a.toNat) (hhigh : a.toNat ≤ 31) : readReg s a = 0#32 := by
  have hne : ∀ k < 5, a ≠ BitVec.ofNat 6 k := by
    rintro k hk rfl
    rw [BitVec.toNat_ofNat] at hlow
    omega
  rw [readReg, if_neg (by omega), if_neg (hne 0 (by omega)), if_neg (hne 1 (by omega)), if_neg (hne 2 (by omega)),
    if_neg (hne 3 (by omega)), if_neg (hne 4 (by omega))]

/-- Settles O9: a register read depends on MODE, ALPHA, PAD and the error capture alone (10_state R39, R48). -/
theorem hiddenStateCannotBeRead : Obligations.HiddenStateCannotBeRead := by
  intro s t a hmode halpha hpad hcapture
  obtain ⟨hcode, hovf, hchar, hpos, hcmd⟩ := hcapture
  simp only [readReg, statusWord, hmode, halpha, hpad, hcode, hovf, hchar, hpos, hcmd]

/-- Settles O8: the registers at the addresses 1 to 4 by definition, the rest by the lemmas on the map. -/
theorem registerMapReadsTheState : Obligations.RegisterMapReadsTheState := by
  exact ⟨fun s => ⟨rfl, rfl, rfl, rfl, fun _ => readReg_reserved s, readReg_alpha s, fun _ => rfl⟩,
    rfl, rfl, rfl, rfl, readReg_alpha _, rfl, rfl⟩

/-- Settles O7: the fields of STATUS are the parts it is put together from, low bits first (10_state R40). -/
theorem statusFieldsShowTheState : Obligations.StatusFieldsShowTheState := by
  intro s
  rw [readReg_status, statusWord]
  refine ⟨?mode, ?cfgValid, ?pad, ?zeros, ?errCode, ?errOvf, ?high⟩
  case mode =>
    rw [BitVec.extractLsb'_append_eq_of_add_le (by decide), BitVec.extractLsb'_eq_self]
    cases s.mode <;> rfl
  case cfgValid =>
    iterate 2 rw [BitVec.getLsbD_append]
    simp
  case pad =>
    iterate 3 rw [BitVec.getLsbD_append]
    simp
  case zeros =>
    iterate 3 rw [BitVec.extractLsb'_append_eq_of_le (by decide)]
    rw [BitVec.extractLsb'_append_eq_of_add_le (by decide)]
    rfl
  case errCode =>
    iterate 4 rw [BitVec.extractLsb'_append_eq_of_le (by decide)]
    rw [BitVec.extractLsb'_append_eq_of_add_le (by decide), BitVec.extractLsb'_eq_self]
    cases s.errCode <;> rfl
  case errOvf =>
    iterate 6 rw [BitVec.getLsbD_append]
    simp
  case high =>
    iterate 6 rw [BitVec.extractLsb'_append_eq_of_le (by decide)]
    rfl

end Sys2Proof.Machine
end

section
/-! SUPPORT. The output port: what keeps `OutputInv`. -/

namespace Sys2Proof.Machine

/-- The items fit when there are none, or the buffer has room for them (20_memory R59). -/
theorem fits_iff (s t : State) :
    fits s t = true ↔ t.out.length = s.out.length ∨ t.out.length - t.taken ≤ Config.outDepth := by
  simp [fits, untaken]

/-- Appending items that fit keeps the invariant: the sink's items stand in front of them (20_memory R58, R59). -/
theorem OutputInv.of_grows {s t : State} (hs : OutputInv s) (hout : s.out <+: t.out) (htaken : t.taken = s.taken)
    (hsink : t.sink = s.sink) (hfits : fits s t = true) : OutputInv t := by
  obtain ⟨hle, hbuffered, hends⟩ := hs
  have hgrows := hout.length_le
  refine ⟨by omega, ?_, ?_⟩
  · obtain hnone | hroom := (fits_iff s t).mp hfits
    · rwa [hnone, htaken]
    · exact hroom
  · obtain ⟨items, hitems⟩ := hout
    rwa [htaken, hsink, ← hitems, List.take_append_of_le_length hle]

/-- The invariant speaks of OUT and the sink's end of the output port alone. -/
theorem OutputInv.of_same {s t : State} (hs : OutputInv s) (hout : t.out = s.out) (htaken : t.taken = s.taken)
    (hsink : t.sink = s.sink) : OutputInv t :=
  hs.of_grows (by rw [hout]) htaken hsink ((fits_iff s t).mpr (.inl (by rw [hout])))

/-- The sink takes the item that follows those it has taken (20_memory R58). -/
theorem OutputInv.takeItem {s : State} (hs : OutputInv s) : OutputInv (takeItem s) := by
  obtain ⟨hle, hbuffered, hends⟩ := hs
  unfold Machine.takeItem
  split
  next => exact ⟨hle, hbuffered, hends⟩
  next item hitem =>
    obtain ⟨hlt, -⟩ := List.getElem?_eq_some_iff.mp hitem
    refine ⟨hlt, by dsimp only; omega, ?_⟩
    dsimp only
    rw [List.take_add_one, hitem, List.map_append]
    exact List.suffix_append_self_iff.mpr hends

/-- After a reset OUT is empty and nothing of it is taken (70_reset_and_hazards R230). -/
theorem outputInv_assertReset (s : State) : OutputInv (assertReset s) :=
  ⟨Nat.zero_le _, Nat.zero_le _, List.nil_suffix⟩

/-- The block's turn keeps the invariant: it appends only items that fit (20_memory R59). -/
theorem OutputInv.takeTurn {s t : State} (hs : OutputInv s) (h : takeTurn s = .next t) : OutputInv t := by
  obtain ⟨-, rfl⟩ | ⟨w, later, u, -, hu, ⟨hfits, rfl⟩ | ⟨-, rfl⟩⟩ := takeTurn_cases h
  · exact hs
  · obtain ⟨htaken, hsink, -⟩ := performWord_samePorts hu
    have hgrows := performWord_out_grows hu
    exact hs.of_grows hgrows htaken hsink hfits
  · exact hs

/-- Settles O47: only the block's turn and the sink's take touch OUT or the sink's end of it between two resets. -/
theorem stepKeepsOutputInv : Obligations.StepKeepsOutputInv := by
  intro s t hs h
  obtain ⟨-, h⟩ | ⟨a, rest, -, h⟩ := step_cases h
  · exact hs.takeTurn h
  · have hs' : OutputInv { s with inbox := rest } := hs.of_same rfl rfl rfl
    cases a with
    | turn => exact hs'.takeTurn h
    | send w =>
      cases h
      exact hs'.of_same rfl rfl rfl
    | read r =>
      cases h
      exact hs'.of_same rfl rfl rfl
    | take =>
      cases h
      exact hs'.takeItem
    | reset =>
      cases h
      exact outputInv_assertReset _

end Sys2Proof.Machine
end

section
/-! SUPPORT. The frame of every command. -/

namespace Sys2Proof.Machine

/-- Settles O40: the ports and OUT by the lemmas on the effects, the registers effect by effect; a command that is not
legal in the mode only records. -/
theorem commandsLeaveTheRestAlone : Obligations.CommandsLeaveTheRestAlone := by
  intro i s t h
  have heffect := exec_effect h
  refine ⟨heffect.samePorts, heffect.out_grows, ?_⟩
  cases heffect with
  | nop => rfl
  | sequence hlegal =>
    -- `hlegal` contradicts the mode under which the capture is claimed to be kept
    cases i <;> simp_all [SameEncoder, SameDecoder, legal]
  | configMismatch hstart hvalid =>
    obtain ⟨p, rfl⟩ | rfl := hstart <;> simp [SameEncoder, SameDecoder, hvalid]
  | heldNotTrailing hm | unmapped hm => simp [SameEncoder, hm]
  | _ => simp [SameEncoder, SameDecoder, SameCapture]

end Sys2Proof.Machine
end

section
/-! SUPPORT. The block's turn, forwards: the word at the head of the command port is performed or held. -/

namespace Sys2Proof.Machine

/-- A step with the block's turn next in the inbox, or with an empty one, is the block's turn (70_reset_and_hazards
R249). -/
theorem step_of_turn {s : State} {rest : List HostAction}
    (hturn : s.inbox = .turn :: rest ∨ (s.inbox = [] ∧ rest = [])) : step s = takeTurn { s with inbox := rest } := by
  obtain hinbox | ⟨hinbox, rfl⟩ := hturn
  · rw [step, nextAction, hinbox]
    rfl
  · have hsame : { s with inbox := [] } = s := by rw [← hinbox]
    rw [step, nextAction, hinbox, hsame]
    rfl

/-- The turn performs the head word when its items fit, and else holds it (20_memory R59). -/
theorem takeTurn_of_performWord {s t : State} {w : Word} {later : List Word} (hport : s.cmdPort = w :: later)
    (hw : performWord w { s with cmdPort := later } = .next t) :
    takeTurn s = .next (if fits s t = true then t else s) := by
  have haccept : acceptWord s = { s with cmdPort := later } := by rw [acceptWord, hport, List.tail_cons]
  rw [takeTurn, hport]
  simp only [performOrHold, haccept, hw]
  split <;> rfl

theorem performWord_of_decode {w : Word} {i : Instr} (h : decode w = some i) (s : State) :
    performWord w s = exec i s := by
  rw [performWord, h]

theorem performWord_of_illegal {w : Word} (h : decode w = none) (s : State) :
    performWord w s = .next (raiseIllegal w s) := by
  rw [performWord, h]
  rfl

/-- Settles O41: the step is the block's turn, which performs or holds the head word; the record of an illegal word emits
nothing, so it always fits. -/
theorem stepPerformsTheHeadWordOrHoldsIt : Obligations.StepPerformsTheHeadWordOrHoldsIt := by
  intro s rest w later t hturn hport
  rw [step_of_turn hturn]
  refine ⟨fun i hi hexec => ?_, fun hillegal => ?_⟩
  · rw [← performWord_of_decode hi] at hexec
    obtain ⟨htaken, -⟩ := performWord_samePorts hexec
    have hfits := fits_iff { s with inbox := rest } t
    rw [htaken] at hfits
    rw [takeTurn_of_performWord (s := { s with inbox := rest }) hport hexec]
    exact ⟨fun hroom => by rw [if_pos (hfits.mpr hroom)], fun hfull => by rw [if_neg (mt hfits.mp hfull)]⟩
  · have hrecord := performWord_of_illegal hillegal { s with inbox := rest, cmdPort := later }
    rw [takeTurn_of_performWord (s := { s with inbox := rest }) hport hrecord,
      if_pos ((fits_iff _ _).mpr (.inl (by simp))), raiseIllegal_eq]

end Sys2Proof.Machine
end

section
/-! SUPPORT. Which words decode to a command, and to which one (30_encoding R74, R76). -/

namespace Sys2Proof

/-- Settles O1: every command is decoded from its own word. -/
theorem decodeOfEncodeIsIdentity : Obligations.DecodeOfEncodeIsIdentity := decode_encode

/-- Settles O5: each worked word is the encoding of its command, so it decodes to it. -/
theorem workedEncodingsAgree : Obligations.WorkedEncodingsAgree :=
  ⟨⟨rfl, decode_encode (.encStart true)⟩, ⟨rfl, decode_encode (.encByte 0x66#8)⟩,
    ⟨rfl, decode_encode (.decChar 0x4D#8)⟩, ⟨rfl, decode_encode (.decChar 0x0A#8)⟩,
    ⟨rfl, decode_encode (.cfgAlpha 31#5 0x37#8)⟩, ⟨rfl, decode_encode (.cfgAlpha 0#5 0x61#8)⟩⟩

/-- A row hits a word whose masked bits are the match word (30_encoding R74). -/
theorem hits_iff (r : OpcodeRow) (w : Word) : r.hits w = true ↔ w &&& r.maskWord = r.matchWord := beq_iff_eq

/-- A word that a row hits has the row's operation (30_encoding R74). -/
theorem fieldOp_of_hits {w : Word} {r : OpcodeRow} (hr : r ∈ opcodeTable) (hhits : r.hits w = true) :
    fieldOp r.matchWord = fieldOp w := by
  rw [hits_eq_fieldOp_and_hits w r hr, Bool.and_eq_true, beq_iff_eq] at hhits
  exact hhits.left

/-- Each row is the first of its operation (30_encoding R73). -/
theorem find_row_of_mem : ∀ r ∈ opcodeTable,
    opcodeTable.find? (fun q => fieldOp q.matchWord == fieldOp r.matchWord) = some r := by
  simp only [opcodeTable, List.forall_mem_cons]
  exact ⟨rfl, rfl, rfl, rfl, rfl, rfl, rfl, rfl, rfl, rfl, nofun⟩

/-- A word decodes to what a row that hits it builds; the order of the rows does not matter, since they are disjoint
(30_encoding R74, R76). -/
theorem decode_eq_some_iff {w : Word} {i : Instr} :
    decode w = some i ↔ ∃ r ∈ opcodeTable, r.hits w = true ∧ r.build w = i := by
  constructor
  · intro h
    cases hfind : opcodeTable.find? (·.hits w) with
    | none => simp [decode, decodeWord, hfind, Except.toOption] at h
    | some r =>
      have hbuild : r.build w = i := by simpa [decode, decodeWord, hfind, Except.toOption] using h
      have hhits : r.hits w = true := by simpa using List.find?_some hfind
      exact ⟨r, List.mem_of_find?_eq_some hfind, hhits, hbuild⟩
  · rintro ⟨r, hr, hhits, rfl⟩
    have hrow := find_row_of_mem r hr
    rw [fieldOp_of_hits hr hhits] at hrow
    exact decode_eq_of_row hrow hhits

/-- A word is illegal when no row hits it (30_encoding R75). -/
theorem decode_eq_none_iff {w : Word} : decode w = none ↔ ∀ r ∈ opcodeTable, ¬r.hits w = true := by
  have hsome : (∃ i, decode w = some i) ↔ ∃ r ∈ opcodeTable, r.hits w = true := by simp [decode_eq_some_iff]
  simpa [Option.eq_none_iff_forall_ne_some] using not_congr hsome

/-- Settles O3: a word decodes to a command when one of the ten rows hits it and builds the command, and each command is
built by its own row alone, from the fields of R72. -/
theorem wordIsCommandIffMaskedWordMatches : Obligations.WordIsCommandIffMaskedWordMatches := by
  intro w
  simp only [decode_eq_some_iff, opcodeTable, List.exists_mem_cons_iff, hits_iff]
  simp [fieldD, fieldIdx, fieldP, eq_comm]

end Sys2Proof
end

section
/-! SUPPORT. The bits of a word that a mask covers, and a word put together from its fields (30_encoding R70, R74). -/

namespace Sys2Proof

section Masked
variable {w m k : Word} {start len : Nat}

/-- Where a mask is ones the masked word is the word. -/
theorem masked_part_of_ones (hm : m.extractLsb' start len = BitVec.allOnes len) :
    (w &&& m).extractLsb' start len = w.extractLsb' start len := by
  rw [BitVec.extractLsb'_and, hm, BitVec.and_allOnes]

/-- Where a mask is zero the masked word is zero. -/
theorem masked_part_of_zero (hm : m.extractLsb' start len = 0#len) : (w &&& m).extractLsb' start len = 0#len := by
  rw [BitVec.extractLsb'_and, hm, BitVec.and_zero]

/-- Where its mask is ones, a word that a row hits is the row's match word (30_encoding R74). -/
theorem part_eq_of_masked_eq (h : w &&& m = k) (hm : m.extractLsb' start len = BitVec.allOnes len) :
    w.extractLsb' start len = k.extractLsb' start len := by
  rw [← h, masked_part_of_ones hm]

end Masked

/-- The low `n + m` bits of two words agree when their low `m` bits do and the `n` bits above these. -/
theorem lowPart_eq_iff {v : Nat} (x y : BitVec v) (n m : Nat) :
    x.extractLsb' 0 (n + m) = y.extractLsb' 0 (n + m)
      ↔ x.extractLsb' m n = y.extractLsb' m n ∧ x.extractLsb' 0 m = y.extractLsb' 0 m := by
  have happend (z : BitVec v) : z.extractLsb' 0 (n + m) = z.extractLsb' m n ++ z.extractLsb' 0 m :=
    (BitVec.extractLsb'_append_extractLsb'_eq_extractLsb' (Nat.zero_add m).symm).symm
  refine ⟨fun h => ?_, fun ⟨hhigh, hlow⟩ => by rw [happend, happend, hhigh, hlow]⟩
  rw [happend, happend] at h
  have hhigh := congrArg (BitVec.extractLsb' m n) h
  have hlow := congrArg (BitVec.extractLsb' 0 m) h
  rw [BitVec.extractLsb'_append_eq_of_le le_rfl, BitVec.extractLsb'_append_eq_of_le le_rfl] at hhigh
  rw [BitVec.extractLsb'_append_eq_of_add_le (by omega), BitVec.extractLsb'_append_eq_of_add_le (by omega)] at hlow
  simpa using And.intro hhigh hlow

/-- The number of two words put together. -/
theorem toNat_append_eq_add {m n : Nat} (x : BitVec m) (y : BitVec n) : (x ++ y).toNat = x.toNat * 2 ^ n + y.toNat := by
  rw [BitVec.toNat_append, ← Nat.shiftLeft_add_eq_or_of_lt y.isLt, Nat.shiftLeft_eq]

/-- The number of a command word: each field times the value of its lowest bit (30_encoding R70). -/
theorem toNat_cmd32 (op : BitVec 4) (p : Bool) (idx : SymVal) (d : Byte) :
    (cmd32 op p idx d).toNat = op.toNat * 0x10000000 + p.toNat * 0x10000 + idx.toNat * 0x100 + d.toNat := by
  simp only [cmd32, toNat_append_eq_add, BitVec.toNat_ofBool, BitVec.toNat_ofNat]
  omega

/-- A word whose reserved bits are zero is put together from its fields (30_encoding R70). -/
theorem cmd32_eq_of_parts {w : Word} {op : BitVec 4} {p : Bool} {idx : SymVal} {d : Byte}
    (hop : w.extractLsb' 28 4 = op) (hhigh : w.extractLsb' 17 11 = 0#11) (hp : w.extractLsb' 16 1 = BitVec.ofBool p)
    (hmid : w.extractLsb' 13 3 = 0#3) (hidx : w.extractLsb' 8 5 = idx) (hd : w.extractLsb' 0 8 = d) :
    cmd32 op p idx d = w := by
  simp only [← BitVec.toNat_inj, BitVec.extractLsb'_toNat, Nat.shiftRight_eq_div_pow, BitVec.toNat_ofNat,
    BitVec.toNat_ofBool, toNat_cmd32] at *
  omega

/-- P is the one bit 16 (30_encoding R70). -/
theorem extractLsb'_eq_fieldP (w : Word) : w.extractLsb' 16 1 = BitVec.ofBool (fieldP w) := by
  apply BitVec.eq_of_getLsbD_eq
  intro b hb
  obtain rfl : b = 0 := by omega
  simp [fieldP]

/-- A word that a row hits is the word of the command that the row builds: what the mask covers the match word fixes, and
the rest are the operands (30_encoding R72, R74). -/
theorem encode_build_of_masked_eq {w : Word} :
    ∀ r ∈ opcodeTable, w &&& r.maskWord = r.matchWord → encode (r.build w) = w := by
  have hall {k : Word} (h : w &&& 0xFFFFFFFF#32 = k) : k = w := h.symm.trans BitVec.and_allOnes
  simp only [opcodeTable, List.forall_mem_cons]
  refine ⟨hall, hall, fun h => ?cfgAlpha, hall, fun h => ?encStart, fun h => ?encByte, hall, hall, fun h => ?decChar, hall,
    nofun⟩
  case cfgAlpha =>
    exact cmd32_eq_of_parts (part_eq_of_masked_eq h rfl) (part_eq_of_masked_eq h rfl) (part_eq_of_masked_eq h rfl)
      (part_eq_of_masked_eq h rfl) rfl rfl
  case encStart =>
    exact cmd32_eq_of_parts (part_eq_of_masked_eq h rfl) (part_eq_of_masked_eq h rfl) (extractLsb'_eq_fieldP w)
      (part_eq_of_masked_eq h rfl) (part_eq_of_masked_eq h rfl) (part_eq_of_masked_eq h rfl)
  case encByte | decChar =>
    exact cmd32_eq_of_parts (part_eq_of_masked_eq h rfl) (part_eq_of_masked_eq h rfl) (part_eq_of_masked_eq h rfl)
      (part_eq_of_masked_eq h rfl) (part_eq_of_masked_eq h rfl) rfl

/-- Settles O2: a word that decodes is hit by the row that builds its command, and so is that command's word. -/
theorem encodeOfDecodeIsIdentity : Obligations.EncodeOfDecodeIsIdentity := by
  intro w i h
  obtain ⟨r, hr, hhits, rfl⟩ := decode_eq_some_iff.mp h
  exact encode_build_of_masked_eq r hr ((hits_iff r w).mp hhits)

end Sys2Proof
end

section
/-! SUPPORT. The illegal words (30_encoding R75): the masks of R74 told as the must-be-zero bits of R71. -/

namespace Sys2Proof.Machine

section MustBeZero
variable {w m k : Word}

/-- Every mask covers OP (30_encoding R74). -/
theorem masked_eq_iff (hm : m.extractLsb' 28 4 = BitVec.allOnes 4) (hk : k.extractLsb' 0 28 = 0#28) :
    w &&& m = k ↔ w.extractLsb' 28 4 = k.extractLsb' 28 4 ∧ (w &&& m).extractLsb' 0 28 = 0#28 := by
  have hparts := lowPart_eq_iff (w &&& m) k 4 28
  rwa [BitVec.extractLsb'_eq_self, BitVec.extractLsb'_eq_self, masked_part_of_ones hm, hk] at hparts

/-- A mask that is ones on the `n` bits from bit `j` up and leaves those below `j` free makes these `n` bits must-be-zero. -/
theorem masked_low_eq_zero_iff (n j : Nat) (hones : m.extractLsb' j n = BitVec.allOnes n)
    (hzeros : m.extractLsb' 0 j = 0#j) : (w &&& m).extractLsb' 0 (n + j) = 0#(n + j) ↔ w.extractLsb' j n = 0#n := by
  have hparts := lowPart_eq_iff (w &&& m) 0#32 n j
  simpa [masked_part_of_ones hones, masked_part_of_zero hzeros] using hparts

/-- The mask of a command without operands: all of [27:0] must be zero (30_encoding R71). -/
theorem masked_eq_iff_noOperand (hk : k.extractLsb' 0 28 = 0#28) :
    w &&& 0xFFFFFFFF#32 = k ↔ w.extractLsb' 28 4 = k.extractLsb' 28 4 ∧ w.extractLsb' 0 28 = 0#28 :=
  (masked_eq_iff rfl hk).trans (and_congr_right' (masked_low_eq_zero_iff 28 0 rfl rfl))

/-- The mask of ENC_BYTE and DEC_CHAR: [27:8] must be zero (30_encoding R71). -/
theorem masked_eq_iff_d (hk : k.extractLsb' 0 28 = 0#28) :
    w &&& 0xFFFFFF00#32 = k ↔ w.extractLsb' 28 4 = k.extractLsb' 28 4 ∧ w.extractLsb' 8 20 = 0#20 :=
  (masked_eq_iff rfl hk).trans (and_congr_right' (masked_low_eq_zero_iff 20 8 rfl rfl))

/-- The mask of CFG_ALPHA: [27:13] must be zero (30_encoding R71). -/
theorem masked_eq_iff_idx_d (hk : k.extractLsb' 0 28 = 0#28) :
    w &&& 0xFFFFE000#32 = k ↔ w.extractLsb' 28 4 = k.extractLsb' 28 4 ∧ w.extractLsb' 13 15 = 0#15 :=
  (masked_eq_iff rfl hk).trans (and_congr_right' (masked_low_eq_zero_iff 15 13 rfl rfl))

/-- The mask of ENC_START: [27:17] and [15:0] must be zero (30_encoding R71). -/
theorem masked_eq_iff_p (hk : k.extractLsb' 0 28 = 0#28) :
    w &&& 0xFFFEFFFF#32 = k ↔
      w.extractLsb' 28 4 = k.extractLsb' 28 4 ∧ w.extractLsb' 17 11 = 0#11 ∧ w.extractLsb' 0 16 = 0#16 := by
  refine (masked_eq_iff rfl hk).trans (and_congr_right' ?_)
  refine (lowPart_eq_iff (w &&& 0xFFFEFFFF#32) 0#32 11 17).trans (and_congr ?_ ?_)
  · rw [masked_part_of_ones rfl]
    rfl
  · refine (lowPart_eq_iff (w &&& 0xFFFEFFFF#32) 0#32 1 16).trans ?_
    rw [masked_part_of_zero rfl, masked_part_of_ones rfl]
    simp

end MustBeZero

/-- Settles O4: no row hits the word, each row told as its OP and its must-be-zero bits; then OP by OP. -/
theorem illegalWordsAreRecordedOnly : Obligations.IllegalWordsAreRecordedOnly := by
  intro w
  refine ⟨?illegal, fun h s => ?recorded, fun h => ?examples⟩
  case illegal =>
    simp only [decode_eq_none_iff, hits_iff, opcodeTable, List.forall_mem_cons]
    rw [masked_eq_iff_noOperand rfl, masked_eq_iff_noOperand rfl, masked_eq_iff_idx_d rfl, masked_eq_iff_noOperand rfl,
      masked_eq_iff_p rfl, masked_eq_iff_d rfl, masked_eq_iff_noOperand rfl, masked_eq_iff_noOperand rfl,
      masked_eq_iff_d rfl, masked_eq_iff_noOperand rfl]
    generalize w.extractLsb' 28 4 = op
    obtain ⟨⟨n, hn⟩⟩ := op
    -- under each value of OP at most one row and at most one clause of R75 are left, about the same bits
    interval_cases n <;> simp [imp_iff_not_or]
  case recorded =>
    rw [performWord_of_illegal h]
    rfl
  case examples =>
    simp only [List.mem_cons, List.not_mem_nil, or_false] at h
    obtain rfl | rfl | rfl | rfl | rfl := h <;> rfl

end Sys2Proof.Machine
end

section
/-! SUPPORT. The words of the assembler's lines (30_encoding R78, R79). -/

namespace Sys2Proof.Machine

/-- A command word as R78 writes it: the sum of its fields' values. -/
theorem cmd32_eq_ofNat {op : BitVec 4} {p : Bool} {idx : SymVal} {d : Byte} {n : Nat}
    (hn : op.toNat * 0x10000000 + p.toNat * 0x10000 + idx.toNat * 0x100 + d.toNat = n) :
    cmd32 op p idx d = BitVec.ofNat 32 n := by
  rw [← hn, ← toNat_cmd32, BitVec.ofNat_toNat, BitVec.setWidth_eq]

/-- An operand in range is not truncated (30_encoding R78). -/
theorem toNat_operand {v n : Nat} (h : n < 2 ^ v) : (BitVec.ofNat v n).toNat = n := by
  rw [BitVec.toNat_ofNat, Nat.mod_eq_of_lt h]

theorem encode_cfgAlpha (idx : Nat) (d : Byte) (hidx : idx ≤ 31) :
    encode (.cfgAlpha (BitVec.ofNat 5 idx) d) = BitVec.ofNat 32 (0x20000000 + idx * 256 + d.toNat) := by
  refine cmd32_eq_ofNat ?_
  rw [toNat_operand (n := idx) (by omega)]
  simp

theorem encode_encStart {p : Nat} (hp : p ≤ 1) :
    encode (.encStart (decide (p = 1))) = BitVec.ofNat 32 (0x40000000 + p * 65536) := by
  interval_cases p <;> rfl

theorem encode_encByte (d : Byte) : encode (.encByte d) = BitVec.ofNat 32 (0x50000000 + d.toNat) :=
  cmd32_eq_ofNat (by simp)

theorem encode_decChar (d : Byte) : encode (.decChar d) = BitVec.ofNat 32 (0x90000000 + d.toNat) :=
  cmd32_eq_ofNat (by simp)

theorem map_encode_encByte (s : List Byte) :
    (s.map .encByte).map encode = s.map fun b => BitVec.ofNat 32 (0x50000000 + b.toNat) := by
  simp [encode_encByte]

theorem map_encode_decChar (s : List Byte) :
    (s.map .decChar).map encode = s.map fun c => BitVec.ofNat 32 (0x90000000 + c.toNat) := by
  simp [encode_decChar]

/-- The words of `cfg.alphabet`: entry k gets byte k (30_encoding R79). -/
theorem map_encode_alphabetCommands (s : List Byte) : (alphabetCommands s).map encode =
    List.zipWith (fun k c => BitVec.ofNat 32 (0x20000000 + k * 256 + c.toNat)) (List.range 32) s := by
  refine List.ext_getElem (by simp [alphabetCommands]) fun k hk _ => ?_
  obtain ⟨hrange, -⟩ : k < 32 ∧ k < s.length := by simpa [alphabetCommands] using hk
  simp only [alphabetCommands, List.getElem_map, List.getElem_zipWith, List.getElem_range]
  exact encode_cfgAlpha k _ (Nat.le_of_lt_succ hrange)

/-- A line is refused exactly when an operand is out of range (30_encoding R78). -/
theorem assemble_eq_ite {src : Source} {P : Prop} [Decidable P] {ws : List Word} (hrange : src.wellFormed = true ↔ P)
    (hwords : P → (expandInRange src).map encode = ws) : assemble src = if P then some ws else none := by
  unfold assemble expand
  by_cases h : P
  · rw [if_pos (hrange.mpr h), if_pos h, Option.map_some, hwords h]
  · rw [if_neg (mt hrange.mp h), if_neg h, Option.map_none]

/-- Settles O6: line by line, when its operands are in range and the words it then stands for. -/
theorem assemblerEmitsTableWordsOrRefuses : Obligations.AssemblerEmitsTableWordsOrRefuses := by
  refine ⟨⟨rfl, rfl, rfl, rfl, rfl, rfl⟩, fun idx sym => ?cfgAlpha, fun p => ?encStart, fun b => ?encByte,
    fun c => ?decChar, fun s p => ?encode, fun s => ?decode, fun s => ?cfgAlphabet⟩
  case cfgAlpha =>
    refine assemble_eq_ite (by simp [Source.wellFormed]) fun ⟨hidx, hsym⟩ => ?_
    rw [expandInRange, List.map_singleton, encode_cfgAlpha idx _ hidx, toNat_operand (by omega)]
  case encStart =>
    refine assemble_eq_ite (by simp [Source.wellFormed]) fun hp => ?_
    rw [expandInRange, List.map_singleton, encode_encStart hp]
  case encByte =>
    refine assemble_eq_ite (by simp [Source.wellFormed]) fun hb => ?_
    rw [expandInRange, List.map_singleton, encode_encByte, toNat_operand (by omega)]
  case decChar =>
    refine assemble_eq_ite (by simp [Source.wellFormed]) fun hc => ?_
    rw [expandInRange, List.map_singleton, encode_decChar, toNat_operand (by omega)]
  case encode =>
    refine assemble_eq_ite (by simp [Source.wellFormed]) fun hp => ?_
    rw [expandInRange, encodeFrame, List.map_cons, List.map_append, encode_encStart hp, map_encode_encByte]
    rfl
  case decode =>
    refine (assemble_eq_ite (P := True) (by simp [Source.wellFormed]) fun _ => ?_).trans (if_pos trivial)
    rw [expandInRange, decodeFrame, List.map_cons, List.map_append, map_encode_decChar]
    rfl
  case cfgAlphabet =>
    refine assemble_eq_ite (by simp [Source.wellFormed]) fun _ => ?_
    exact map_encode_alphabetCommands s

end Sys2Proof.Machine
end

section
/-! SUPPORT. An active frame has a valid alphabet (40_configuration R108). -/

namespace Sys2Proof.Machine

/-- Every effect keeps `ConfigInv`: a frame is begun under a valid alphabet only, and ALPHA is written in IDLE only. -/
theorem Effect.configInv {i : Instr} {s t : State} (h : Effect s i t) (hs : ConfigInv s) : ConfigInv t := by
  unfold ConfigInv at hs ⊢
  cases h with
  | encStart _ _ hvalid | decStart _ hvalid => exact fun _ => hvalid
  | cfgAlpha _ _ hm | cfgDefault hm => simp [hm]
  | clear | encFinish | decFinish => simp
  | heldNotTrailing hm | unmapped hm => exact fun _ => by simpa using hs (by simp [hm])
  | _ => simpa using hs

/-- `ConfigInv` is an invariant of the block. -/
theorem configInv_blockInvariant : BlockInvariant ConfigInv where
  block_only _ := Iff.rfl
  reset := by simp [ConfigInv, State.reset]
  illegal _ hs := by simpa [ConfigInv] using hs
  command h hs := h.configInv hs

/-- Settles O45: `ConfigInv` is an invariant of the block. -/
theorem stepKeepsConfigInv : Obligations.StepKeepsConfigInv :=
  fun _ _ hs h => configInv_blockInvariant.step hs h

end Sys2Proof.Machine
end

section
/-! SUPPORT. Valid alphabets (40_configuration R106, R109). -/

namespace Sys2Proof.Machine

/-- valid(A), condition by condition (40_configuration R106). -/
theorem cfgValid_iff (A : Alphabet) :
    cfgValid A = true ↔
      (∀ i j : SymVal, i ≠ j → lc (entry A i) ≠ lc (entry A j)) ∧ ∀ i : SymVal, inTrim (entry A i) = false := by
  simp [cfgValid, List.all_eq_true, mem_symVals, forall_and, or_iff_not_imp_left]

/-- In a valid alphabet entries with one lower-case image are one entry (40_configuration R106). -/
theorem eq_of_lc_entry_eq {A : Alphabet} (hvalid : cfgValid A = true) {i j : SymVal}
    (h : lc (entry A i) = lc (entry A j)) : i = j := by
  by_contra hne
  exact ((cfgValid_iff A).mp hvalid).1 i j hne h

/-- A byte that an entry accepts has the entry's lower-case image (40_configuration R109). -/
theorem lc_eq_of_accepted {a c : Byte} (h : a = c ∨ lc a = c) : lc a = lc c := by
  obtain rfl | rfl := h
  · rfl
  · exact (lc_lc a).symm

/-- Settles O15: `cfgValid_iff`, and each of the first three pairwise conditions follows from the fourth, since bytes that
agree after folding one of them have one lower-case image. -/
theorem validityIsDistinctFoldsAndNoTrimByte : Obligations.ValidityIsDistinctFoldsAndNoTrimByte := by
  refine fun A => ⟨?valid, fun hdistinct i j hne => ?pairwise, fun hpairwise i j hne => (hpairwise i j hne).2.2.2⟩
  case valid => simp only [cfgValid_iff, ← inTrim_iff, Bool.not_eq_true]
  case pairwise =>
    have hlc := hdistinct i j hne
    exact ⟨fun h => hlc (lc_eq_of_accepted (.inl h)), fun h => hlc (lc_eq_of_accepted (.inr h)),
      fun h => hlc (lc_eq_of_accepted (.inr h.symm)).symm, hlc⟩

/-- Settles O16: both entries have the lower-case image of the byte, and that is one entry's only. -/
theorem validAlphabetAcceptsAtOneIndex : Obligations.ValidAlphabetAcceptsAtOneIndex :=
  fun _ _ _ _ hvalid hi hj => eq_of_lc_entry_eq hvalid ((lc_eq_of_accepted hi).trans (lc_eq_of_accepted hj).symm)

end Sys2Proof.Machine
end

section
/-! SUPPORT. The reference functions by the number of their bytes (44_frame_reference R181, R182): why no alphabet with a
trim-set byte keeps the round trip (40_configuration R107). -/

namespace Sys2Proof.Machine

/-- A trailing trim-set byte is stripped (44_frame_reference R182). -/
theorem rtrim_append_singleton (text : List Byte) {c : Byte} (hc : inTrim c = true) :
    rtrim (text ++ [c]) = rtrim text := by
  simp [rtrim, hc]

/-- Stripping adds no character. -/
theorem length_rtrim_le (text : List Byte) : (rtrim text).length ≤ text.length := by
  rw [rtrim, List.length_reverse, ← List.length_reverse (as := text)]
  exact (List.dropWhile_sublist inTrim).length_le

/-- Decoding takes one byte for each 8 bits, and drops the bits left (44_frame_reference R182). -/
theorem length_of_refChars_eq_ok (A : Alphabet) (text : List Byte) : ∀ (i buf size : Nat) (bytes : List Byte),
    size ≤ 7 → refChars A text i buf size = .ok bytes → bytes.length = (size + 5 * text.length) / 8 := by
  induction text with
  | nil =>
    intro i buf size bytes hsize h
    cases h
    simp only [List.length_nil]
    omega
  | cons c text ih =>
    intro i buf size bytes hsize h
    rw [refChars] at h
    split at h
    next => cases h
    next v _ =>
      dsimp only at h
      split at h
      next hfull =>
        cases hrest : refChars A text (i + 1) (buf * 32 + v.toNat) (size - 3) with
        | error e =>
          rw [hrest] at h
          cases h
        | ok rest =>
          rw [hrest] at h
          cases h
          have hlen := ih _ _ _ rest (by omega) hrest
          simp only [List.length_cons]
          omega
      next =>
        have hlen := ih _ _ _ bytes (by omega) h
        simp only [List.length_cons]
        omega

/-- Decode_ref answers one byte for each 8 bits of the trimmed text. -/
theorem length_of_decodeRef_eq_ok {A : Alphabet} {text bytes : List Byte} (h : decodeRef A text = .ok bytes) :
    bytes.length = 5 * (rtrim text).length / 8 := by
  have hlen := length_of_refChars_eq_ok A (rtrim text) 0 0 0 bytes (by omega) h
  rwa [Nat.zero_add] at hlen

/-- The group that is left when all above it are taken is the low 5 bits of the last byte (44_frame_reference R181). -/
theorem lastGroup_eq (remainder : Nat) (b : Byte) :
    BitVec.ofNat 5 (remainder * 256 + b.toNat) &&& 31#5 = b.setWidth 5 := by
  have hones : 31#5 = BitVec.allOnes 5 := rfl
  apply BitVec.eq_of_toNat_eq
  rw [hones, BitVec.and_allOnes, BitVec.toNat_ofNat, BitVec.toNat_setWidth]
  omega

/-- Five bytes are encoded as 8 symbols without padding, the last one that of the low 5 bits of the last byte
(40_configuration R107). -/
theorem encodeRef_five (A : Alphabet) (a b c d e : Byte) (p : Bool) :
    ∃ body, body.length = 7 ∧ encodeRef A [a, b, c, d, e] p = body ++ [entry A (e.setWidth 5)] := by
  have hpad : padCount 0 = 0 := rfl
  refine ⟨(encodeRef A [a, b, c, d, e] p).take 7, ?_, ?_⟩ <;>
    simp [encodeRef, refBytes, refDrain, hpad, lastGroup_eq]

/-- Settles O20: the last of the 8 symbols is stripped, and the 7 left hold 35 bits, which are 4 bytes and not 5. -/
theorem trimByteInAlphabetBreaksRoundTrip : Obligations.TrimByteInAlphabetBreaksRoundTrip := by
  intro A k p htrim h
  obtain ⟨body, hbody, henc⟩ := encodeRef_five A 0#8 0#8 0#8 0#8 (k.setWidth 8) p
  have hk : (k.setWidth 8).setWidth 5 = k := by simp
  have hlen := length_of_decodeRef_eq_ok h
  rw [henc, hk, rtrim_append_singleton body htrim] at hlen
  have hle := length_rtrim_le body
  simp only [List.length_cons, List.length_nil] at hlen
  omega

end Sys2Proof.Machine
end

section
/-! SUPPORT. The configuration commands, mode by mode (40_configuration R100, R102). -/

namespace Sys2Proof.Machine

section Modes
variable {s : State} (idx : SymVal) (d : Byte)

theorem exec_cfgAlpha_of_idle (hm : s.mode = .idle) :
    exec (.cfgAlpha idx d) s = .next (setAlpha (setEntry s.alpha idx d) s) := if_pos hm

theorem exec_cfgAlpha_of_not_idle (hm : s.mode ≠ .idle) :
    exec (.cfgAlpha idx d) s = .next (raiseSequence (encode (.cfgAlpha idx d)) s) := if_neg hm

theorem exec_cfgDefault_of_idle (hm : s.mode = .idle) :
    exec .cfgDefault s = .next (setAlpha Config.defaultAlphabet s) := if_pos hm

theorem exec_cfgDefault_of_not_idle (hm : s.mode ≠ .idle) :
    exec .cfgDefault s = .next (raiseSequence (encode .cfgDefault) s) := if_neg hm

end Modes

/-- Writing an entry with its current value changes nothing (40_configuration R100). -/
@[simp] theorem setEntry_entry_self (A : Alphabet) (i : SymVal) : setEntry A i (entry A i) = A :=
  Vector.set_getElem_self i.isLt

/-- The word of CFG_ALPHA: its match word with IDX from bit 8 and D from bit 0 (30_encoding R71, R72). -/
theorem encode_cfgAlpha_eq_or (idx : SymVal) (d : Byte) :
    encode (.cfgAlpha idx d) = 0x20000000#32 ||| (idx.setWidth 32 <<< 8) ||| d.setWidth 32 := by
  apply BitVec.eq_of_getLsbD_eq
  intro b hb
  rw [encode, cmd32_getLsbD]
  interval_cases b <;> simp

/-- Settles O13: in IDLE `setEntry` is what is written, elsewhere SEQUENCE is raised. -/
theorem cfgAlphaWritesItsEntry : Obligations.CfgAlphaWritesItsEntry := by
  refine ⟨fun s idx d => ⟨fun hm => ?written, fun hm hd => ?unchanged, exec_cfgAlpha_of_not_idle idx d,
    encode_cfgAlpha_eq_or idx d⟩, ?lowerCase⟩
  case written =>
    exact ⟨_, exec_cfgAlpha_of_idle idx d hm, by simp [entry_setEntry], fun j hj => by simp [entry_setEntry, hj]⟩
  case unchanged =>
    rw [exec_cfgAlpha_of_idle idx d hm, ← hd, setEntry_entry_self]
    rfl
  case lowerCase => exact ⟨_, exec_cfgAlpha_of_idle 0#5 0x61#8 rfl, by decide, by decide⟩

/-- Settles O14: mode by mode, entry by entry, and the example run: a second 'A' at entry 5 makes the alphabet invalid and
CFG_DEFAULT leads back to the reset state. -/
theorem cfgDefaultRestoresTheValidDefault : Obligations.CfgDefaultRestoresTheValidDefault := by
  refine ⟨fun s => ⟨exec_cfgDefault_of_idle, exec_cfgDefault_of_not_idle⟩, by decide, cfgValid_default, by decide,
    fun t h => ?_⟩
  rw [exec_cfgAlpha_of_idle 5#5 0x41#8 rfl] at h
  cases h
  exact ⟨by decide, exec_cfgDefault_of_idle rfl⟩

end Sys2Proof.Machine
end

section
/-! SUPPORT. The encoder commands, mode by mode (41_encoder R120, R121, R130), and the words they have. -/

namespace Sys2Proof.Machine

section Modes
variable {s : State} (p : Bool) (d : Byte)

theorem exec_encStart_of_not_idle (hm : s.mode ≠ .idle) :
    exec (.encStart p) s = .next (raiseSequence (encode (.encStart p)) s) := if_pos hm

theorem exec_encStart_of_invalid (hm : s.mode = .idle) (hvalid : cfgValid s.alpha = false) :
    exec (.encStart p) s = .next (raiseConfigMismatch (encode (.encStart p)) s) :=
  (if_neg (not_not_intro hm)).trans (if_pos hvalid)

theorem exec_encStart_of_valid (hm : s.mode = .idle) (hvalid : cfgValid s.alpha = true) :
    exec (.encStart p) s = .next (clearEnc (setPad p (setMode .enc s))) :=
  (if_neg (not_not_intro hm)).trans (if_neg (by simp [hvalid]))

theorem exec_encByte_of_not_enc (hm : s.mode ≠ .enc) :
    exec (.encByte d) s = .next (raiseSequence (encode (.encByte d)) s) := if_pos hm

/-- ENC_BYTE in terms of what its loop answers (41_encoder R121). -/
theorem exec_encByte_of_drain (hm : s.mode = .enc) {items : List Byte} {acc : BitVec 12} {rs : Nat}
    (hdrain : drain s.alpha (s.encRs.toNat + 8) ((s.encAcc <<< 8) ||| d.setWidth 12) = (items, acc, rs)) :
    exec (.encByte d) s = .next (setEnc acc (BitVec.ofNat 4 rs) (BitVec.ofNat 3 ((s.encCnt5.toNat + 1) % 5))
      (emit (items.map .data) s)) := by
  rw [exec, execEncByte, if_neg (not_not_intro hm), hdrain]

theorem exec_encFinish_of_not_enc (hm : s.mode ≠ .enc) :
    exec .encFinish s = .next (raiseSequence (encode .encFinish) s) := if_pos hm

theorem exec_encFinish_of_enc (hm : s.mode = .enc) : exec .encFinish s =
    .next (clearEnc (setPad false (setMode .idle (emit (finalSymbol s ++ padding s ++ [.endFrame .ok]) s)))) :=
  if_neg (not_not_intro hm)

end Modes

/-- Operand D fills the low byte of the word, and leaves the bits above as they are (30_encoding R70). -/
theorem cmd32_eq_or_d (op : BitVec 4) (p : Bool) (idx : SymVal) (d : Byte) :
    cmd32 op p idx d = cmd32 op p idx 0#8 ||| d.setWidth 32 := by
  apply BitVec.eq_of_getLsbD_eq
  intro k hk
  rw [BitVec.getLsbD_or, cmd32_getLsbD, cmd32_getLsbD, BitVec.getLsbD_setWidth]
  by_cases hlow : k < 8
  · simp [hlow, hk]
  · simp [hlow, BitVec.getLsbD_of_ge d k (by omega)]

/-- The word of ENC_BYTE: its match word with D from bit 0 (30_encoding R71, R72). -/
theorem encode_encByte_eq_or (d : Byte) : encode (.encByte d) = 0x50000000#32 ||| d.setWidth 32 := cmd32_eq_or_d ..

/-- Settles O22: mode by mode, and the example from the reset state. -/
theorem encStartBeginsAnEmptyFrame : Obligations.EncStartBeginsAnEmptyFrame :=
  ⟨fun _ p => ⟨exec_encStart_of_valid p, exec_encStart_of_not_idle p, exec_encStart_of_invalid p⟩, by decide, by decide,
    _, exec_encStart_of_valid true rfl cfgValid_default, by decide⟩

/-- Settles O23: `drain` is run on the shifted accumulator, its two equations are those of the loop, and the example is one
round of it. -/
theorem encByteShiftsInAndDrains : Obligations.EncByteShiftsInAndDrains := by
  refine ⟨fun s d => ⟨fun hm => ⟨_, _, _, rfl, exec_encByte_of_drain d hm rfl⟩, exec_encByte_of_not_enc d,
    encode_encByte_eq_or d⟩, fun A rs acc => ⟨drain_of_le A rs acc, fun items last left hrest => ?round⟩,
    fun s hm hacc hrs hcnt halpha => ?worked⟩
  case round =>
    change drain A rs (lowBits acc rs) = _ at hrest
    rw [drain_add_five, hrest]
    rfl
  case worked =>
    have hdrain : drain s.alpha (s.encRs.toNat + 8) ((s.encAcc <<< 8) ||| (0x66#8).setWidth 12) = ([0x4D#8], 6#12, 3) := by
      rw [halpha, hrs, hacc]
      decide
    rw [exec_encByte_of_drain _ hm hdrain, hcnt]
    rfl

/-- Settles O25: the symbol, the padding and END(0) are emitted, the pad counts are the table's, and the example leaves 3
bits and no padding. -/
theorem encFinishClosesTheFrame : Obligations.EncFinishClosesTheFrame := by
  refine ⟨fun s => ⟨fun hm => ?closed, exec_encFinish_of_not_enc⟩, by decide, by decide,
    fun s hm hacc hrs hpad halpha => ⟨_, exec_encFinish_of_enc hm, ?worked⟩⟩
  case closed =>
    rw [exec_encFinish_of_enc hm, emit, ← List.append_assoc, ← List.append_assoc]
    rfl
  case worked =>
    have hsymbol : finalSymbol s = [.data 0x59#8] := by
      rw [finalSymbol, halpha, hrs, hacc]
      decide
    simp [hsymbol, padding, hpad]

end Sys2Proof.Machine
end

section
/-! SUPPORT. The bit groups of one ENC_BYTE (41_encoder R125): with 8 to 12 bits buffered the loop takes one group or two,
and they are fields of the old accumulator with the new byte behind it. -/

namespace Sys2Proof.Machine

/-- Shifting `n` bits into the 12-bit buffer appends them, at the buffer's width (41_encoder R121, 42_decoder R147). -/
theorem shiftIn_eq_setWidth_append {n : Nat} (v : BitVec 12) (d : BitVec n) :
    (v <<< n) ||| d.setWidth 12 = (v ++ d).setWidth 12 := by
  apply BitVec.eq_of_getLsbD_eq
  intro k hk
  rw [BitVec.getLsbD_or, BitVec.getLsbD_shiftLeft, BitVec.getLsbD_setWidth, BitVec.getLsbD_setWidth, BitVec.getLsbD_append]
  by_cases hlow : k < n
  · simp [hlow, hk]
  · simp [hlow, hk, BitVec.getLsbD_of_ge d k (by omega)]

/-- The bit window as a field of the buffer (41_encoder R123). -/
theorem window_eq_extractLsb' (acc : BitVec 12) {rs : Nat} (h : rs ≤ 7) : window acc rs = acc.extractLsb' rs 5 := by
  apply BitVec.eq_of_toNat_eq
  rw [toNat_window acc rs h, BitVec.extractLsb'_toNat, Nat.shiftRight_eq_div_pow]

/-- The low bits as a field of the buffer (41_encoder R124). -/
theorem lowBits_eq_extractLsb' (v : BitVec 12) {n : Nat} (h : n ≤ 12) :
    lowBits v n = (v.extractLsb' 0 n).setWidth 12 := by
  apply BitVec.eq_of_toNat_eq
  have hle : 2 ^ n ≤ 2 ^ 12 := Nat.pow_le_pow_right (by omega) h
  have hlt : v.toNat % 2 ^ n < 2 ^ n := Nat.mod_lt _ (Nat.two_pow_pos n)
  rw [toNat_lowBits v n h, BitVec.toNat_setWidth, BitVec.extractLsb'_toNat, Nat.shiftRight_zero,
    Nat.mod_eq_of_lt (hlt.trans_le hle)]

/-- A field of the low bits is that field of the buffer. -/
theorem extractLsb'_lowBits (v : BitVec 12) {start len n : Nat} (hfield : start + len ≤ n) (hn : n ≤ 12) :
    (lowBits v n).extractLsb' start len = v.extractLsb' start len := by
  rw [lowBits_eq_extractLsb' v hn, BitVec.extractLsb'_setWidth_of_le (hfield.trans hn),
    BitVec.extractLsb'_extractLsb'_of_le hfield]

/-- With 5 to 9 bits buffered the loop takes one group (41_encoder R121). -/
theorem drain_one_group (A : Alphabet) {rs : Nat} (acc : BitVec 12) (h : rs ≤ 4) :
    drain A (rs + 5) acc = ([entry A (acc.extractLsb' rs 5)], (acc.extractLsb' 0 rs).setWidth 12, rs) := by
  rw [drain_add_five, drain_of_le A rs _ h, window_eq_extractLsb' acc (by omega), lowBits_eq_extractLsb' acc (by omega)]

/-- With 10 to 12 bits buffered the loop takes two groups (41_encoder R121). -/
theorem drain_two_groups (A : Alphabet) {rs : Nat} (acc : BitVec 12) (h : rs ≤ 2) :
    drain A (rs + 10) acc = ([entry A (acc.extractLsb' (rs + 5) 5), entry A (acc.extractLsb' rs 5)],
      (acc.extractLsb' 0 rs).setWidth 12, rs) := by
  rw [drain_add_five A (rs + 5), drain_one_group A _ (by omega), window_eq_extractLsb' acc (by omega),
    extractLsb'_lowBits acc (by omega) (by omega), extractLsb'_lowBits acc (by omega) (by omega)]

section Groups
variable {s : State} {n : Nat} (d : Byte) (hm : s.mode = .enc)
include hm

/-- ENC_BYTE that leaves `n` bits after one group (41_encoder R125). -/
theorem exec_encByte_one_group (hrs : s.encRs.toNat + 8 = n + 5) (hn : n ≤ 4) : exec (.encByte d) s = .next
    (setEnc (((s.encAcc ++ d).extractLsb' 0 n).setWidth 12) (BitVec.ofNat 4 n)
      (BitVec.ofNat 3 ((s.encCnt5.toNat + 1) % 5)) (emit [.data (entry s.alpha ((s.encAcc ++ d).extractLsb' n 5))] s)) := by
  refine exec_encByte_of_drain d hm (items := [entry s.alpha ((s.encAcc ++ d).extractLsb' n 5)]) ?_
  rw [hrs, drain_one_group _ _ hn, shiftIn_eq_setWidth_append, BitVec.extractLsb'_setWidth_of_le (by omega),
    BitVec.extractLsb'_setWidth_of_le (by omega)]

/-- ENC_BYTE that leaves `n` bits after two groups (41_encoder R125). -/
theorem exec_encByte_two_groups (hrs : s.encRs.toNat + 8 = n + 10) (hn : n ≤ 2) : exec (.encByte d) s = .next
    (setEnc (((s.encAcc ++ d).extractLsb' 0 n).setWidth 12) (BitVec.ofNat 4 n)
      (BitVec.ofNat 3 ((s.encCnt5.toNat + 1) % 5))
      (emit [.data (entry s.alpha ((s.encAcc ++ d).extractLsb' (n + 5) 5)),
        .data (entry s.alpha ((s.encAcc ++ d).extractLsb' n 5))] s)) := by
  refine exec_encByte_of_drain d hm (items := [entry s.alpha ((s.encAcc ++ d).extractLsb' (n + 5) 5),
    entry s.alpha ((s.encAcc ++ d).extractLsb' n 5)]) ?_
  rw [hrs, drain_two_groups _ _ hn, shiftIn_eq_setWidth_append, BitVec.extractLsb'_setWidth_of_le (by omega),
    BitVec.extractLsb'_setWidth_of_le (by omega), BitVec.extractLsb'_setWidth_of_le (by omega)]

end Groups

/-- Settles O24: of the 8 to 12 bits buffered one group is taken and 3 or 4 bits are left, or two groups and 0 to 2 bits. -/
theorem encByteEmitsByTable : Obligations.EncByteEmitsByTable := by
  rintro s d acc cnt hm rfl rfl
  refine ⟨fun hrs => ?rs0, fun hrs => ?rs1, fun hrs => ?rs2, fun hrs => ?rs3, fun hrs => ?rs4⟩
  case rs0 => exact exec_encByte_one_group (n := 3) d hm (by simp [hrs]) (by omega)
  case rs1 => exact exec_encByte_one_group (n := 4) d hm (by simp [hrs]) (by omega)
  case rs2 =>
    have hempty : ((s.encAcc ++ d).extractLsb' 0 0).setWidth 12 = 0#12 := by simp
    rw [exec_encByte_two_groups (n := 0) d hm (by simp [hrs]) (by omega), hempty]
    rfl
  case rs3 => exact exec_encByte_two_groups (n := 1) d hm (by simp [hrs]) (by omega)
  case rs4 => exact exec_encByte_two_groups (n := 2) d hm (by simp [hrs]) (by omega)

end Sys2Proof.Machine
end

section
/-! SUPPORT. The decoder's symbol mapper (42_decoder R141, R142). -/

namespace Sys2Proof.Machine

theorem accepts_iff {A : Alphabet} {c : Byte} {i : SymVal} :
    accepts A c i = true ↔ entry A i = c ∨ lc (entry A i) = c := by
  simp [accepts]

/-- `symVals` lists the indices in ascending order. -/
theorem symVals_pairwise_lt : symVals.Pairwise (· < ·) := by decide

/-- In an ascending list what is less than an element stands before it. -/
theorem mem_left_of_lt {before after : List SymVal} {i j : SymVal} (hasc : (before ++ i :: after).Pairwise (· < ·))
    (hj : j ∈ before ++ i :: after) (hlt : j < i) : j ∈ before := by
  obtain ⟨hafter, -⟩ := List.pairwise_cons.mp (List.pairwise_append.mp hasc).2.1
  rcases List.mem_append.mp hj with hbefore | hrest
  · exact hbefore
  · rcases List.mem_cons.mp hrest with rfl | hmem
    · exact absurd hlt (BitVec.lt_irrefl _)
    · exact absurd (hafter j hmem) (BitVec.lt_asymm hlt)

/-- The index that the mapper finds accepts the character, and no lesser one does (42_decoder R141). -/
theorem least_of_symbolMap_eq_some {A : Alphabet} {c : Byte} {i : SymVal} (h : symbolMap A c = some i) :
    accepts A c i = true ∧ ∀ j < i, ¬accepts A c j = true := by
  obtain ⟨haccepts, before, after, hsplit, hbefore⟩ := List.find?_eq_some_iff_append.mp h
  refine ⟨haccepts, fun j hlt => ?_⟩
  have hj : j ∈ before := mem_left_of_lt (hsplit ▸ symVals_pairwise_lt) (hsplit ▸ mem_symVals j) hlt
  simpa using hbefore j hj

/-- The mapper finds nothing exactly when no entry accepts the character (42_decoder R141). -/
theorem symbolMap_eq_none_iff {A : Alphabet} {c : Byte} :
    symbolMap A c = none ↔ ∀ i : SymVal, ¬(entry A i = c ∨ lc (entry A i) = c) := by
  simp only [symbolMap, List.find?_eq_none, mem_symVals, forall_const, accepts_iff]

/-- The mapper finds exactly the least accepting index (42_decoder R141). -/
theorem symbolMap_eq_some_iff {A : Alphabet} {c : Byte} {i : SymVal} :
    symbolMap A c = some i ↔
      (entry A i = c ∨ lc (entry A i) = c) ∧ ∀ j : SymVal, j < i → ¬(entry A j = c ∨ lc (entry A j) = c) := by
  simp only [← accepts_iff]
  refine ⟨least_of_symbolMap_eq_some, fun ⟨haccepts, hleast⟩ => ?_⟩
  cases h : symbolMap A c with
  | none => exact absurd (accepts_iff.mp haccepts) (symbolMap_eq_none_iff.mp h i)
  | some k =>
    obtain ⟨hk, hkLeast⟩ := least_of_symbolMap_eq_some h
    have hle : i ≤ k := BitVec.not_lt.mp fun hlt => hleast k hlt hk
    have hge : k ≤ i := BitVec.not_lt.mp fun hlt => hkLeast i hlt haccepts
    rw [BitVec.le_antisymm hge hle]

/-- Settles O17: the mapper searches the indices in ascending order. -/
theorem symbolMapIsLeastAcceptingIndex : Obligations.SymbolMapIsLeastAcceptingIndex :=
  fun _ _ => ⟨fun _ => symbolMap_eq_some_iff, symbolMap_eq_none_iff⟩

/-- Under a valid alphabet a character maps to the index of any entry that accepts it (40_configuration R109). -/
theorem symbolMap_of_accepted {A : Alphabet} (hvalid : cfgValid A = true) {c : Byte} {i : SymVal}
    (hi : entry A i = c ∨ lc (entry A i) = c) : symbolMap A c = some i :=
  symbolMap_eq_some_iff.mpr ⟨hi, fun j hlt hj =>
    BitVec.ne_of_lt hlt (validAlphabetAcceptsAtOneIndex A c j i hvalid hj hi)⟩

/-- A capital letter is an entry of the default alphabet (40_configuration R102). -/
theorem entry_default_of_upperCase {c : Byte} :
    0x41#8 ≤ c ∧ c ≤ 0x5A#8 → entry Config.defaultAlphabet (BitVec.ofNat 5 (c.toNat - 0x41)) = c := by
  revert c; decide

/-- A lower-case letter is the lower-case image of an entry of the default alphabet (40_configuration R102). -/
theorem lc_entry_default_of_lowerCase {c : Byte} :
    0x61#8 ≤ c ∧ c ≤ 0x7A#8 → lc (entry Config.defaultAlphabet (BitVec.ofNat 5 (c.toNat - 0x61))) = c := by
  revert c; decide

/-- The digits 2 to 7 are entries of the default alphabet (40_configuration R102). -/
theorem entry_default_of_digit {c : Byte} :
    0x32#8 ≤ c ∧ c ≤ 0x37#8 → entry Config.defaultAlphabet (BitVec.ofNat 5 (c.toNat - 0x32 + 26)) = c := by
  revert c; decide

/-- An entry of the default alphabet is a capital letter, or a digit that folding leaves (40_configuration R102). -/
theorem entry_default_cases (i : SymVal) :
    ((0x41#8 ≤ entry Config.defaultAlphabet i ∧ entry Config.defaultAlphabet i ≤ 0x5A#8)
      ∧ 0x61#8 ≤ lc (entry Config.defaultAlphabet i) ∧ lc (entry Config.defaultAlphabet i) ≤ 0x7A#8)
    ∨ (0x32#8 ≤ entry Config.defaultAlphabet i ∧ entry Config.defaultAlphabet i ≤ 0x37#8)
      ∧ lc (entry Config.defaultAlphabet i) = entry Config.defaultAlphabet i := by
  revert i; decide

/-- Settles O18: the default alphabet is valid, so an accepting entry is the one mapped to; and no entry accepts a character
that is no letter and no digit. -/
theorem defaultAlphabetAcceptsLettersAndDigits : Obligations.DefaultAlphabetAcceptsLettersAndDigits := by
  intro c
  split_ifs with hupper hlower hdigit
  · exact symbolMap_of_accepted cfgValid_default (.inl (entry_default_of_upperCase hupper))
  · exact symbolMap_of_accepted cfgValid_default (.inr (lc_entry_default_of_lowerCase hlower))
  · exact symbolMap_of_accepted cfgValid_default (.inl (entry_default_of_digit hdigit))
  · refine symbolMap_eq_none_iff.mpr fun i hi => ?_
    rcases entry_default_cases i with ⟨hentry, hfold⟩ | ⟨hentry, hfold⟩
    · rcases hi with rfl | rfl
      · exact hupper hentry
      · exact hlower hfold
    · rw [hfold, or_self] at hi
      exact hdigit (hi ▸ hentry)

/-- A lower-case letter is its own lower-case image, and that of its upper-case form, which differs from it
(00_scope R9). -/
theorem lc_of_lowerCase {c : Byte} :
    0x61#8 ≤ c → c ≤ 0x7A#8 → lc c = c ∧ lc (c - 0x20#8) = c ∧ c ≠ c - 0x20#8 := by
  revert c; decide

/-- Settles O19: an entry that accepts the upper-case form has the lower-case image of entry `i`, so it is entry `i`; but
neither that entry nor its lower-case image, which is the entry itself, is the upper-case form. -/
theorem foldingIsOneWay : Obligations.FoldingIsOneWay := by
  intro A i hvalid hlow hhigh
  obtain ⟨hself, hupper, hne⟩ := lc_of_lowerCase hlow hhigh
  refine ⟨symbolMap_of_accepted hvalid (.inl rfl), symbolMap_eq_none_iff.mpr fun j hj => ?_⟩
  have hlc : lc (entry A j) = lc (entry A i) := by rw [lc_eq_of_accepted hj, hupper, hself]
  obtain rfl := eq_of_lc_entry_eq hvalid hlc
  rw [hself, or_self] at hj
  exact hne hj

end Sys2Proof.Machine
end

section
/-! SUPPORT. The decoder commands, mode by mode (42_decoder R140, R145, R157), and the words they have. -/

namespace Sys2Proof.Machine

/-- The word of DEC_CHAR: its match word with D from bit 0 (30_encoding R71, R72). -/
theorem encode_decChar_eq_or (d : Byte) : encode (.decChar d) = 0x90000000#32 ||| d.setWidth 32 := cmd32_eq_or_d ..

/-- What InvalidSymbol leaves, by whether an error is captured already (60_exceptions R201, R205). -/
theorem raiseInvalidSymbol_eq_ite (ch : Byte) (pos : BitVec 32) (cmd : Word) (s : State) :
    raiseInvalidSymbol ch pos cmd s =
      if s.errCode = .none then
        { s with mode := .decErr, errCode := .invalidSymbol, errChar := ch, errPos := pos, errCmd := cmd }
      else { s with mode := .decErr, errOvf := true } := by
  unfold raiseInvalidSymbol record
  split <;> rfl

section Modes
variable {s : State} {d : Byte}

theorem exec_decStart_of_not_idle (hm : s.mode ≠ .idle) :
    exec .decStart s = .next (raiseSequence (encode .decStart) s) := if_pos hm

theorem exec_decStart_of_invalid (hm : s.mode = .idle) (hvalid : cfgValid s.alpha = false) :
    exec .decStart s = .next (raiseConfigMismatch (encode .decStart) s) :=
  (if_neg (not_not_intro hm)).trans (if_pos hvalid)

theorem exec_decStart_of_valid (hm : s.mode = .idle) (hvalid : cfgValid s.alpha = true) :
    exec .decStart s = .next (clearDec (setMode .dec s)) :=
  (if_neg (not_not_intro hm)).trans (if_neg (by simp [hvalid]))

theorem exec_decChar_of_dec (hm : s.mode = .dec) : exec (.decChar d) s = .next (feedChar d s) := by
  simp only [exec, execDecChar, hm]

theorem exec_decChar_of_decErr (hm : s.mode = .decErr) : exec (.decChar d) s = .next s := by
  simp only [exec, execDecChar, hm]

theorem exec_decChar_of_no_decode_frame (hm : s.mode = .idle ∨ s.mode = .enc) :
    exec (.decChar d) s = .next (raiseSequence (encode (.decChar d)) s) := by
  obtain hm | hm := hm <;> simp only [exec, execDecChar, hm]

theorem exec_decFinish_of_dec (hm : s.mode = .dec) : exec .decFinish s = .next (closeDec .ok s) := by
  simp only [exec, execDecFinish, hm]

theorem exec_decFinish_of_decErr (hm : s.mode = .decErr) : exec .decFinish s = .next (closeDec .invalid s) := by
  simp only [exec, execDecFinish, hm]

theorem exec_decFinish_of_no_decode_frame (hm : s.mode = .idle ∨ s.mode = .enc) :
    exec .decFinish s = .next (raiseSequence (encode .decFinish) s) := by
  obtain hm | hm := hm <;> simp only [exec, execDecFinish, hm]

/-- DEC_CHAR with the first character of a held run (42_decoder R150). -/
theorem exec_decChar_holdFirst (hm : s.mode = .dec) (ht : inTrim d = true) (hh : s.decHeld = false) :
    exec (.decChar d) s = .next (setDecPos (s.decPos + 1#32) (setHeld true d s.decPos s)) := by
  rw [exec_decChar_of_dec hm, feedChar, if_pos ht, holdChar, if_neg (by simp [hh])]

/-- DEC_CHAR with a later character of a held run (42_decoder R150). -/
theorem exec_decChar_holdLater (hm : s.mode = .dec) (ht : inTrim d = true) (hh : s.decHeld = true) :
    exec (.decChar d) s = .next (setDecPos (s.decPos + 1#32) s) := by
  rw [exec_decChar_of_dec hm, feedChar, if_pos ht, holdChar, if_pos hh]

/-- DEC_CHAR that shows a held run not to be trailing (42_decoder R151). -/
theorem exec_decChar_heldNotTrailing (hm : s.mode = .dec) (ht : inTrim d = false) (hh : s.decHeld = true) :
    exec (.decChar d) s = .next (raiseInvalidSymbol s.decHchar s.decHpos (encode (.decChar d)) s) := by
  rw [exec_decChar_of_dec hm, feedChar, if_neg (by simp [ht]), if_pos hh]

/-- DEC_CHAR with a character that maps to no symbol (42_decoder R152). -/
theorem exec_decChar_unmapped (hm : s.mode = .dec) (ht : inTrim d = false) (hh : s.decHeld = false)
    (hv : symbolMap s.alpha d = none) :
    exec (.decChar d) s = .next (raiseInvalidSymbol d s.decPos (encode (.decChar d)) s) := by
  rw [exec_decChar_of_dec hm, feedChar, if_neg (by simp [ht]), if_neg (by simp [hh]), hv]

/-- DEC_CHAR with a character that maps to a symbol (42_decoder R145). -/
theorem exec_decChar_symbol (hm : s.mode = .dec) (ht : inTrim d = false) (hh : s.decHeld = false) {v : SymVal}
    (hv : symbolMap s.alpha d = some v) : exec (.decChar d) s = .next (acceptSymbol v s) := by
  rw [exec_decChar_of_dec hm, feedChar, if_neg (by simp [ht]), if_neg (by simp [hh]), hv]

end Modes

/-- Settles O26: mode by mode, and the example from the reset state. -/
theorem decStartBeginsAnEmptyFrame : Obligations.DecStartBeginsAnEmptyFrame :=
  ⟨fun _ => ⟨exec_decStart_of_valid, exec_decStart_of_not_idle, exec_decStart_of_invalid⟩, by decide,
    _, exec_decStart_of_valid rfl cfgValid_default, by decide⟩

/-- Settles O27: the first character of a held run, and a later one. -/
theorem decCharHoldsTrimCharacters : Obligations.DecCharHoldsTrimCharacters := by
  intro s d hm hd
  have ht : inTrim d = true := (inTrim_iff d).mpr hd
  exact ⟨exec_decChar_holdFirst hm ht, exec_decChar_holdLater hm ht⟩

/-- Settles O28: the held run was not trailing, or the character itself does not map. -/
theorem decCharRaisesInvalidSymbol : Obligations.DecCharRaisesInvalidSymbol := by
  intro s d hm ht
  refine ⟨fun hh => ?held, fun hh hentries => ?unmapped⟩
  case held => rw [exec_decChar_heldNotTrailing hm ht hh, raiseInvalidSymbol_eq_ite, encode_decChar_eq_or]
  case unmapped =>
    have hv : symbolMap s.alpha d = none := symbolMap_eq_none_iff.mpr fun i => not_or.mpr (hentries i)
    rw [exec_decChar_unmapped hm ht hh hv, raiseInvalidSymbol_eq_ite, encode_decChar_eq_or]

/-- Settles O30: mode by mode. -/
theorem decCharIsIgnoredAfterAnError : Obligations.DecCharIsIgnoredAfterAnError := by
  refine fun s d => ⟨exec_decChar_of_decErr, fun hm => ?_⟩
  rw [exec_decChar_of_no_decode_frame hm, raiseSequence_eq, encode_decChar_eq_or]

/-- Settles O31: mode by mode. -/
theorem decFinishClosesTheFrame : Obligations.DecFinishClosesTheFrame :=
  ⟨fun _ => ⟨exec_decFinish_of_dec, exec_decFinish_of_decErr, exec_decFinish_of_no_decode_frame⟩, by decide⟩

end Sys2Proof.Machine
end

section
/-! SUPPORT. The byte of one accepted symbol (42_decoder R149): with 8 bits or more buffered the byte above those left is
taken, and both are fields of the old buffer with the new symbol behind it. -/

namespace Sys2Proof.Machine

/-- The byte window as a field of the buffer (42_decoder R148). -/
theorem byteWindow_eq_extractLsb' (buf : BitVec 12) {bs : Nat} (h : bs ≤ 4) :
    byteWindow buf bs = buf.extractLsb' bs 8 := by
  apply BitVec.eq_of_toNat_eq
  rw [toNat_byteWindow buf bs h, BitVec.extractLsb'_toNat, Nat.shiftRight_eq_div_pow]

/-- A buffer of `n` bits is its own low `n` bits. -/
theorem lowBits_of_lt {v : BitVec 12} {n : Nat} (hn : n ≤ 12) (hv : v.toNat < 2 ^ n) : lowBits v n = v := by
  apply BitVec.eq_of_toNat_eq
  rw [toNat_lowBits v n hn, Nat.mod_eq_of_lt hv]

section Symbols
variable {s : State} {n : Nat} (v : SymVal)

/-- An accepted symbol that makes `n + 8` bits emits the upper 8 of them (42_decoder R147, R148). -/
theorem acceptSymbol_of_byte (hbs : s.decBs.toNat + 5 = n + 8) (hn : n ≤ 4) : acceptSymbol v s =
    setDecPos (s.decPos + 1#32) (setDecBits (((s.decBuf ++ v).extractLsb' 0 n).setWidth 12) (BitVec.ofNat 4 n)
      (emit [.data ((s.decBuf ++ v).extractLsb' n 8)] s)) := by
  simp only [acceptSymbol]
  rw [if_pos (by omega), hbs, Nat.add_sub_cancel, lowBits_eq_extractLsb' _ (by omega), byteWindow_eq_extractLsb' _ hn,
    shiftIn_eq_setWidth_append, BitVec.extractLsb'_setWidth_of_le (by omega),
    BitVec.extractLsb'_setWidth_of_le (by omega)]

/-- An accepted symbol that makes `n` bits, no byte, is kept with them (42_decoder R147). -/
theorem acceptSymbol_of_bits (hbs : s.decBs.toNat + 5 = n) (hn : n ≤ 7) (hbuf : s.decBuf.toNat < 2 ^ s.decBs.toNat) :
    acceptSymbol v s = setDecPos (s.decPos + 1#32)
      (setDecBits (((s.decBuf ++ v).extractLsb' 0 n).setWidth 12) (BitVec.ofNat 4 n) s) := by
  have hlt : ((s.decBuf <<< 5) ||| v.setWidth 12).toNat < 2 ^ n := hbs ▸ shiftIn_lt v hbuf (by omega)
  simp only [acceptSymbol]
  rw [if_neg (by omega), hbs, ← lowBits_of_lt (by omega) hlt, lowBits_eq_extractLsb' _ (by omega),
    shiftIn_eq_setWidth_append, BitVec.extractLsb'_setWidth_of_le (by omega)]

end Symbols

/-- Settles O29: below 3 bits the symbol makes no byte; from 3 bits on it makes one and leaves 0 to 4 bits. -/
theorem decCharEmitsByTable : Obligations.DecCharEmitsByTable := by
  rintro s d v buf hm ht hh hv rfl hbuf
  rw [exec_decChar_symbol hm ht hh hv]
  refine ⟨fun hbs => ?bs0, fun hbs => ?bs1, fun hbs => ?bs2, fun hbs => ?bs3, fun hbs => ?bs4, fun hbs => ?bs5,
    fun hbs => ?bs6, fun hbs => ?bs7⟩
  case bs0 => exact congrArg _ (acceptSymbol_of_bits (n := 5) v (by simp [hbs]) (by omega) hbuf)
  case bs1 => exact congrArg _ (acceptSymbol_of_bits (n := 6) v (by simp [hbs]) (by omega) hbuf)
  case bs2 => exact congrArg _ (acceptSymbol_of_bits (n := 7) v (by simp [hbs]) (by omega) hbuf)
  case bs3 =>
    have hempty : ((s.decBuf ++ v).extractLsb' 0 0).setWidth 12 = 0#12 := by simp
    rw [acceptSymbol_of_byte (n := 0) v (by simp [hbs]) (by omega), hempty]
    rfl
  case bs4 => exact congrArg _ (acceptSymbol_of_byte (n := 1) v (by simp [hbs]) (by omega))
  case bs5 => exact congrArg _ (acceptSymbol_of_byte (n := 2) v (by simp [hbs]) (by omega))
  case bs6 => exact congrArg _ (acceptSymbol_of_byte (n := 3) v (by simp [hbs]) (by omega))
  case bs7 => exact congrArg _ (acceptSymbol_of_byte (n := 4) v (by simp [hbs]) (by omega))

end Sys2Proof.Machine
end

section
/-! SUPPORT. The control commands (43_control). -/

namespace Sys2Proof.Machine

/-- A word with OP = 0 that is not all zero is illegal: OP = 0 makes all of [27:0] must-be-zero (30_encoding R71, R75). -/
theorem decode_eq_none_of_op_zero {w : Word} (hop : w.extractLsb' 28 4 = 0#4) (hw : w ≠ 0#32) : decode w = none := by
  have hlow : w.extractLsb' 0 28 ≠ 0#28 := by
    intro hlow
    have hzero := (lowPart_eq_iff w 0#32 4 28).mpr ⟨hop, hlow⟩
    rw [BitVec.extractLsb'_eq_self, BitVec.extractLsb'_eq_self] at hzero
    exact hw hzero
  obtain ⟨hillegal, -, -⟩ := illegalWordsAreRecordedOnly w
  exact hillegal.mpr (.inr (.inl ⟨by simp [hop], hlow⟩))

/-- Settles O32: NOP answers its own state, and all of its word is OP = 0 and must-be-zero bits. -/
theorem nopHasNoEffect : Obligations.NopHasNoEffect :=
  ⟨fun _ => rfl, rfl, fun _ => decode_eq_none_of_op_zero⟩

/-- CLEAR has only the effect named after it: it is legal in every mode and no START (43_control R171). -/
theorem exec_clear (s : State) : exec .clear s = .next (clearCapture (clearDec (clearEnc (setPad false (setMode .idle
    (emit (if s.mode = .idle then [] else [.endFrame .aborted]) s)))))) := by
  obtain ⟨t, ht⟩ := exec_next .clear s
  cases exec_effect ht with
  | clear => exact ht
  | sequence hlegal => simp [legal] at hlegal
  | configMismatch hstart => simp at hstart

/-- Settles O33: the updates of CLEAR, written out field by field. -/
theorem clearAbortsAndClears : Obligations.ClearAbortsAndClears := ⟨exec_clear, rfl⟩

end Sys2Proof.Machine
end

section
/-! SUPPORT. The right-end trim of Decode_ref (44_frame_reference R182): `rtrim` is the library's `List.rdropWhile`. -/

namespace Sys2Proof.Machine

theorem rtrim_eq_rdropWhile (text : List Byte) : rtrim text = text.rdropWhile inTrim := rfl

/-- Trim-set bytes behind a text are stripped with it (44_frame_reference R190). -/
theorem rtrim_append {trims : List Byte} (htrims : ∀ c ∈ trims, inTrim c = true) (text : List Byte) :
    rtrim (text ++ trims) = rtrim text := by
  rw [rtrim, List.reverse_append, List.dropWhile_append_of_pos (by simpa using htrims), ← rtrim]

/-- A text without a trim-set byte is not shortened. -/
theorem rtrim_of_no_trim {text : List Byte} (h : ∀ c ∈ text, inTrim c = false) : rtrim text = text := by
  rw [rtrim_eq_rdropWhile, List.rdropWhile_eq_self_iff]
  exact fun hne => by simp [h _ (List.getLast_mem hne)]

/-- What is stripped is trim-set bytes at the end. -/
theorem exists_rtrim_append (text : List Byte) : ∃ trims, text = rtrim text ++ trims ∧ ∀ c ∈ trims, inTrim c = true :=
  ⟨text.rtakeWhile inTrim, (List.rdropWhile_append_rtakeWhile ..).symm, fun _ => List.mem_rtakeWhile_imp⟩

/-- A byte outside the trim set is not stripped. -/
theorem mem_rtrim {text : List Byte} {c : Byte} (hc : c ∈ text) (ht : inTrim c = false) : c ∈ rtrim text := by
  obtain ⟨trims, htext, htrims⟩ := exists_rtrim_append text
  rw [htext] at hc
  exact (List.mem_append.mp hc).resolve_right fun hmem => by simp [htrims c hmem] at ht

/-- Whatever is left at the end of the trimmed text holds a byte outside the trim set (44_frame_reference R191). -/
theorem exists_not_inTrim_of_rtrim_eq {text before after : List Byte} (h : rtrim text = before ++ after)
    (hne : after ≠ []) : ∃ d ∈ after, inTrim d = false := by
  have hlast := List.rdropWhile_last_not inTrim text (by simp [← rtrim_eq_rdropWhile, h, hne])
  refine ⟨after.getLast hne, List.getLast_mem hne, ?_⟩
  simpa [← rtrim_eq_rdropWhile, h, List.getLast_append_of_ne_nil, hne] using hlast

/-- Settles O57: both texts are stripped to the same one. -/
theorem trailingTrimBytesAreIgnored : Obligations.TrailingTrimBytesAreIgnored := by
  intro A text trims htrims
  rw [decodeRef, decodeRef, rtrim_append htrims]

end Sys2Proof.Machine
end

section
/-! SUPPORT. The numbers that the reference functions build (44_frame_reference R181, R182): values of a fixed width,
joined one behind the other. -/

namespace Sys2Proof.Machine

/-- The number whose bits are those of `start` and behind them those of the values, in order: Encode_ref's `remainder`
after bytes, and the decoder's buffer after symbol values. -/
def joined {w : Nat} (start : Nat) (values : List (BitVec w)) : Nat :=
  values.foldl (fun n v => n * 2 ^ w + v.toNat) start

section Joined
variable {w : Nat} (n : Nat) (v : BitVec w) (xs ys : List (BitVec w))

@[simp] theorem joined_nil : joined n ([] : List (BitVec w)) = n := rfl

@[simp] theorem joined_cons : joined n (v :: xs) = joined (n * 2 ^ w + v.toNat) xs := rfl

@[simp] theorem joined_append : joined n (xs ++ ys) = joined (joined n xs) ys := List.foldl_append

end Joined

/-- A joined value stays below the bits it is joined to. -/
theorem join_div {w : Nat} (n s : Nat) (v : BitVec w) : (n * 2 ^ w + v.toNat) / 2 ^ (s + w) = n / 2 ^ s := by
  rw [Nat.add_comm s, pow_add, ← Nat.div_div_eq_div_mul, Nat.add_comm, Nat.add_mul_div_right _ _ (Nat.two_pow_pos w),
    Nat.div_eq_of_lt v.isLt, Nat.zero_add]

/-- A joined number tells its values, when their number is known. -/
theorem joined_inj {w : Nat} {xs ys : List (BitVec w)} {m n : Nat} (hlen : xs.length = ys.length)
    (h : joined m xs = joined n ys) : m = n ∧ xs = ys := by
  induction xs generalizing ys m n with
  | nil =>
    obtain rfl := List.length_eq_zero_iff.mp hlen.symm
    exact ⟨h, rfl⟩
  | cons x xs ih =>
    cases ys with
    | nil => simp at hlen
    | cons y ys =>
      obtain ⟨hjoin, rfl⟩ := ih (ys := ys) (by simpa using hlen) h
      have hstart := congrArg (· / 2 ^ (0 + w)) hjoin
      simp only [join_div, pow_zero, Nat.div_one] at hstart
      subst hstart
      exact ⟨rfl, by rw [BitVec.eq_of_toNat_eq (Nat.add_left_cancel hjoin)]⟩

/-- The bits that a mask of `w` bits selects above the low `s` bits (44_frame_reference R181, R182). -/
theorem masked_shiftRight (n s w : Nat) : (n &&& ((2 ^ w - 1) <<< s)) >>> s = n / 2 ^ s % 2 ^ w := by
  rw [Nat.shiftRight_and_distrib, Nat.shiftLeft_shiftRight, Nat.and_two_pow_sub_one_eq_mod, Nat.shiftRight_eq_div_pow]

/-- The bits above the low `s + w`, with the `w` bits below them joined on, are the bits above the low `s`. -/
theorem div_join_group (n s w : Nat) : n / 2 ^ (s + w) * 2 ^ w + n / 2 ^ s % 2 ^ w = n / 2 ^ s := by
  rw [pow_add, ← Nat.div_div_eq_div_mul, Nat.div_add_mod']

end Sys2Proof.Machine
end

section
/-! SUPPORT. Encode_ref (44_frame_reference R181): it cuts the joined bytes into groups of 5 bits, and how many it
makes. -/

namespace Sys2Proof.Machine

/-- Step 2 of Encode_ref stops when at most 4 bits are buffered. -/
theorem refDrain_of_le (A : Alphabet) {size : Nat} (n : Nat) (h : size ≤ 4) : refDrain A size n = ([], size) := by
  match size, h with
  | 0, _ | 1, _ | 2, _ | 3, _ | 4, _ => rfl

/-- One round of step 2 of Encode_ref takes the 5 bits above the low `size`. -/
theorem refDrain_add_five (A : Alphabet) (size n : Nat) : refDrain A (size + 5) n =
    (entry A (BitVec.ofNat 5 (n / 2 ^ size % 2 ^ 5)) :: (refDrain A size n).1, (refDrain A size n).2) := by
  rw [← masked_shiftRight]
  rfl

/-- The symbols of step 2 of Encode_ref are those of the groups of 5 bits that the `size` bits buffered hold. -/
theorem refDrain_groups (A : Alphabet) (size n : Nat) : ∃ vs : List SymVal,
    refDrain A size n = (vs.map (entry A), size % 5) ∧ size = 5 * vs.length + size % 5
      ∧ joined (n / 2 ^ size) vs = n / 2 ^ (size % 5) := by
  induction size using Nat.strongRecOn with
  | _ size ih =>
    by_cases h : size ≤ 4
    · refine ⟨[], ?_⟩
      rw [refDrain_of_le A n h, Nat.mod_eq_of_lt (by omega)]
      exact ⟨rfl, by simp, rfl⟩
    · obtain ⟨rest, rfl⟩ : ∃ rest, size = rest + 5 := ⟨size - 5, by omega⟩
      obtain ⟨vs, hdrain, hsize, hjoin⟩ := ih rest (by omega)
      refine ⟨BitVec.ofNat 5 (n / 2 ^ rest % 2 ^ 5) :: vs, ?_, ?_, ?_⟩
      · rw [refDrain_add_five, hdrain, Nat.add_mod_right]
        rfl
      · rw [Nat.add_mod_right, List.length_cons]
        omega
      · rw [joined_cons, BitVec.toNat_ofNat, Nat.mod_mod, div_join_group, hjoin, Nat.add_mod_right]

/-- One byte of step 1 of Encode_ref: its symbols, and then those of the bytes after it. -/
theorem refBytes_cons {A : Alphabet} {b : Byte} {data here later : List Byte} {n size rest : Nat} {last : Nat × Nat}
    (hhere : refDrain A (size + 8) (n * 2 ^ 8 + b.toNat) = (here, rest))
    (hlater : refBytes A data (n * 2 ^ 8 + b.toNat) rest = (later, last)) :
    refBytes A (b :: data) n size = (here ++ later, last) := by
  obtain ⟨rfl, rfl⟩ := Prod.ext_iff.mp hhere
  obtain ⟨rfl, rfl⟩ := Prod.ext_iff.mp hlater
  rfl

/-- The symbols of steps 1 and 2 of Encode_ref are those of the groups of 5 bits that the buffered bits and the bytes hold;
`left` bits make no group. -/
theorem refBytes_groups (A : Alphabet) (data : List Byte) : ∀ {n size : Nat}, size ≤ 4 →
    ∃ (vs : List SymVal) (left : Nat), refBytes A data n size = (vs.map (entry A), joined n data, left) ∧ left ≤ 4
      ∧ size + 8 * data.length = 5 * vs.length + left ∧ joined (n / 2 ^ size) vs = joined n data / 2 ^ left := by
  induction data with
  | nil => exact fun {n size} hsize => ⟨[], size, rfl, hsize, by simp, rfl⟩
  | cons b data ih =>
    intro n size hsize
    obtain ⟨here, hdrain, hhere, hjoin⟩ := refDrain_groups A (size + 8) (n * 2 ^ 8 + b.toNat)
    obtain ⟨later, left, hbytes, hleft, hlater, hrest⟩ :=
      ih (n := n * 2 ^ 8 + b.toNat) (size := (size + 8) % 5) (by omega)
    refine ⟨here ++ later, left, ?_, hleft, ?_, ?_⟩
    · rw [refBytes_cons hdrain hbytes, List.map_append, joined_cons]
    · simp only [List.length_append, List.length_cons]
      omega
    · rw [joined_append, joined_cons, ← join_div n size b, hjoin, hrest]

/-- The symbol values `vs` are the bits of the bytes in groups of 5, the last group filled up with zeros below its bits
(44_frame_reference R181). -/
def Groups (data : List Byte) (vs : List SymVal) : Prop :=
  ∃ fill < 5, 5 * vs.length = 8 * data.length + fill ∧ joined 0 vs = joined 0 data * 2 ^ fill

/-- The number of groups (44_frame_reference R186). -/
theorem Groups.length_eq {data : List Byte} {vs : List SymVal} (h : Groups data vs) :
    vs.length = (data.length * 8 + 4) / 5 := by
  obtain ⟨fill, hfill, hlen, -⟩ := h
  omega

/-- Encode_ref answers the symbols of the groups, and behind them the padding, if it is asked for
(44_frame_reference R181). -/
theorem encodeRef_groups (A : Alphabet) (data : List Byte) : ∃ vs : List SymVal, Groups data vs ∧ ∀ p : Bool,
    encodeRef A data p = vs.map (entry A)
      ++ if p then List.replicate (padCount (data.length % 5)) Config.padChar else [] := by
  obtain ⟨vs, left, hbytes, hleft, hlen, hjoin⟩ := refBytes_groups A data (n := 0) (size := 0) (by omega)
  rw [Nat.zero_div] at hjoin
  unfold encodeRef
  rw [hbytes]
  by_cases hpos : left > 0
  · refine ⟨vs ++ [BitVec.ofNat 5 (joined 0 data * 2 ^ (5 - left) % 2 ^ 5)], ⟨5 - left, by omega, ?_, ?_⟩, fun p => ?_⟩
    · rw [List.length_append, List.length_singleton]
      omega
    · have hgroup : joined 0 data * 2 ^ (5 - left) / 2 ^ 5 = joined 0 data / 2 ^ left := by
        rw [show 5 = left + (5 - left) by omega, pow_add, show left + (5 - left) - left = 5 - left by omega,
          Nat.mul_div_mul_right _ _ (Nat.two_pow_pos _)]
      rw [joined_append, hjoin, joined_cons, joined_nil, BitVec.toNat_ofNat, Nat.mod_mod, ← hgroup, Nat.div_add_mod']
    · rw [List.map_append, ← Nat.and_two_pow_sub_one_eq_mod, ← Nat.shiftLeft_eq]
      simp only [if_pos hpos]
      rfl
  · obtain rfl : left = 0 := by omega
    exact ⟨vs, ⟨0, by omega, by omega, by simpa using hjoin⟩, fun p => by simp⟩

/-- The table of the pad counts (44_frame_reference R187). -/
theorem padCount_eq (n : Nat) :
    padCount (n % 5) = (match n % 5 with | 0 => 0 | 1 => 6 | 2 => 4 | 3 => 3 | _ => 1) := by
  have h : n % 5 < 5 := Nat.mod_lt _ (by omega)
  interval_cases n % 5 <;> rfl

/-- Padding fills the last group of 8 characters (44_frame_reference R187). -/
theorem add_padCount_mod (n : Nat) : ((n * 8 + 4) / 5 + padCount (n % 5)) % 8 = 0 := by
  have h : n % 5 < 5 := Nat.mod_lt _ (by omega)
  rw [padCount_eq]
  interval_cases hn : n % 5 <;> (simp only; omega)

/-- Settles O55: the symbols are counted by `Groups.length_eq`, and the padding is the model's `padCount`. -/
theorem encodedLengthAndPadding : Obligations.EncodedLengthAndPadding := by
  intro A data
  obtain ⟨vs, hgroups, hencode⟩ := encodeRef_groups A data
  have hplain : encodeRef A data false = vs.map (entry A) := by simp [hencode]
  have hpadded : encodeRef A data true =
      encodeRef A data false ++ List.replicate (padCount (data.length % 5)) 0x3D#8 := by
    rw [hencode, hplain]
    rfl
  have hlen : (encodeRef A data false).length = (data.length * 8 + 4) / 5 := by
    rw [hplain, List.length_map, hgroups.length_eq]
  refine ⟨hlen, ?_, _, hpadded, padCount_eq _⟩
  rw [hpadded, List.length_append, hlen, List.length_replicate, add_padCount_mod]

end Sys2Proof.Machine
end

section
/-! SUPPORT. Decode_ref (44_frame_reference R182): it fails at the first character that does not map, and else cuts the
joined symbol values into bytes. -/

namespace Sys2Proof.Machine

section Cons
variable {A : Alphabet} {c : Byte} {v : SymVal} (text : List Byte) (i n : Nat) {size : Nat}

theorem refChars_cons_unmapped (hv : symbolMap A c = none) : refChars A (c :: text) i n size = .error (c, i) := by
  rw [refChars, hv]

/-- A symbol value that completes a byte and leaves `left` bits (44_frame_reference R182). -/
theorem refChars_cons_byte (hv : symbolMap A c = some v) {left : Nat} (hsize : size + 5 = left + 8) :
    refChars A (c :: text) i n size = (refChars A text (i + 1) (n * 2 ^ 5 + v.toNat) left).map
      (BitVec.ofNat 8 ((n * 2 ^ 5 + v.toNat) / 2 ^ left % 2 ^ 8) :: ·) := by
  obtain rfl : left = size - 3 := by omega
  rw [refChars, hv, ← masked_shiftRight]
  exact if_pos (by omega)

/-- A symbol value that completes no byte (44_frame_reference R182). -/
theorem refChars_cons_bits (hv : symbolMap A c = some v) (hsize : size + 5 ≤ 7) :
    refChars A (c :: text) i n size = refChars A text (i + 1) (n * 2 ^ 5 + v.toNat) (size + 5) := by
  rw [refChars, hv]
  exact if_neg (by omega)

end Cons

/-- A character that maps: what it emits are the upper of the bits then buffered, and decoding goes on behind it. -/
theorem refChars_cons_mapped {A : Alphabet} {c : Byte} {v : SymVal} (hv : symbolMap A c = some v) (i n : Nat)
    {size : Nat} (hsize : size ≤ 7) : ∃ (emitted : List Byte) (left : Nat), left ≤ 7 ∧ size + 5 = 8 * emitted.length + left
      ∧ joined (n / 2 ^ size) emitted = (n * 2 ^ 5 + v.toNat) / 2 ^ left
      ∧ ∀ text, refChars A (c :: text) i n size =
        (refChars A text (i + 1) (n * 2 ^ 5 + v.toNat) left).map (emitted ++ ·) := by
  by_cases hbits : size + 5 ≤ 7
  · refine ⟨[], size + 5, hbits, by simp, (join_div n size v).symm, fun text => ?_⟩
    rw [refChars_cons_bits text i n hv hbits]
    cases refChars A text (i + 1) (n * 2 ^ 5 + v.toNat) (size + 5) <;> rfl
  · obtain ⟨left, hleft⟩ : ∃ left, size + 5 = left + 8 := ⟨size - 3, by omega⟩
    refine ⟨[BitVec.ofNat 8 ((n * 2 ^ 5 + v.toNat) / 2 ^ left % 2 ^ 8)], left, by omega,
      by simpa [Nat.add_comm] using hleft, ?_, fun text => refChars_cons_byte text i n hv hleft⟩
    rw [joined_cons, joined_nil, BitVec.toNat_ofNat, Nat.mod_mod, ← join_div n size v, hleft, div_join_group]

/-- Where every character maps, Decode_ref answers the joined symbol values cut into bytes; fewer than 8 bits are left. -/
theorem refChars_ok_of_symbols {A : Alphabet} {text : List Byte} {vs : List SymVal}
    (h : List.Forall₂ (fun c v => symbolMap A c = some v) text vs) : ∀ (i n : Nat) {size : Nat}, size ≤ 7 →
    ∃ bytes left, refChars A text i n size = .ok bytes ∧ left ≤ 7 ∧ size + 5 * vs.length = 8 * bytes.length + left
      ∧ joined (n / 2 ^ size) bytes = joined n vs / 2 ^ left := by
  induction h with
  | nil => exact fun i n size hsize => ⟨[], size, rfl, hsize, by simp, rfl⟩
  | @cons c v text vs hv _ ih =>
    intro i n size hsize
    obtain ⟨emitted, kept, hkept, hsplit, hemitted, hcons⟩ := refChars_cons_mapped hv i n hsize
    obtain ⟨bytes, left, hok, hleft, hlen, hjoin⟩ := ih (i + 1) (n * 2 ^ 5 + v.toNat) hkept
    refine ⟨emitted ++ bytes, left, ?_, hleft, ?_, ?_⟩
    · rw [hcons, hok]
      rfl
    · simp only [List.length_cons, List.length_append]
      omega
    · rw [joined_append, hemitted, hjoin, joined_cons]

/-- What Decode_ref can do: every character maps and it answers bytes; or it fails at the first character that does not map,
and decodes the characters before it (44_frame_reference R182). -/
theorem refChars_cases (A : Alphabet) (text : List Byte) : ∀ (i n : Nat) {size : Nat}, size ≤ 7 →
    (∃ bytes, refChars A text i n size = .ok bytes ∧ ∀ c ∈ text, symbolMap A c ≠ none)
    ∨ ∃ before c after bytes, text = before ++ c :: after ∧ refChars A text i n size = .error (c, i + before.length)
      ∧ symbolMap A c = none ∧ refChars A before i n size = .ok bytes ∧ ∀ c ∈ before, symbolMap A c ≠ none := by
  induction text with
  | nil => exact fun i n _ _ => .inl ⟨[], rfl, by simp⟩
  | cons d text ih =>
    intro i n size hsize
    cases hv : symbolMap A d with
    | none => exact .inr ⟨[], d, text, [], rfl, refChars_cons_unmapped text i n hv, hv, rfl, by simp⟩
    | some v =>
      have hd : symbolMap A d ≠ none := by simp [hv]
      obtain ⟨emitted, kept, hkept, -, -, hcons⟩ := refChars_cons_mapped hv i n hsize
      rcases ih (i + 1) (n * 2 ^ 5 + v.toNat) hkept with
        ⟨bytes, hok, hall⟩ | ⟨before, c, after, bytes, rfl, herr, hc, hok, hall⟩
      · exact .inl ⟨emitted ++ bytes, by rw [hcons, hok]; rfl, List.forall_mem_cons.mpr ⟨hd, hall⟩⟩
      · refine .inr ⟨d :: before, c, after, emitted ++ bytes, rfl, ?_, hc, by rw [hcons, hok]; rfl,
          List.forall_mem_cons.mpr ⟨hd, hall⟩⟩
        rw [hcons, herr, List.length_cons, Nat.add_comm before.length, ← Nat.add_assoc]
        rfl

/-- Under a valid alphabet no trim-set byte maps (44_frame_reference R191). -/
theorem symbolMap_of_inTrim {A : Alphabet} (hvalid : cfgValid A = true) {c : Byte} (ht : inTrim c = true) :
    symbolMap A c = none := by
  rw [symbolMap_eq_none_iff]
  have hentry := ((cfgValid_iff A).mp hvalid).2
  rintro i (rfl | rfl)
  · simp [hentry] at ht
  · simp [inTrim_lc, hentry] at ht

/-- A text of characters that map holds no trim-set byte, under a valid alphabet. -/
theorem inTrim_of_symbolMap_ne_none {A : Alphabet} (hvalid : cfgValid A = true) {c : Byte} (h : symbolMap A c ≠ none) :
    inTrim c = false := by
  by_contra ht
  exact h (symbolMap_of_inTrim hvalid (by simpa using ht))

/-- A text whose trimmed part holds a byte that does not map fails at the first such byte (44_frame_reference R191). -/
theorem decodeRef_error_of_unmapped {A : Alphabet} {text : List Byte} (h : ∃ c ∈ rtrim text, symbolMap A c = none) :
    ∃ c i, decodeRef A text = .error (c, i) ∧ (rtrim text)[i]? = some c ∧ symbolMap A c = none
      ∧ ∀ c' ∈ (rtrim text).take i, symbolMap A c' ≠ none := by
  obtain ⟨d, hd, hunmapped⟩ := h
  rcases refChars_cases A (rtrim text) 0 0 (size := 0) (by omega) with
    ⟨bytes, -, hall⟩ | ⟨before, c, after, bytes, htext, herr, hc, -, hall⟩
  · exact absurd hunmapped (hall d hd)
  · refine ⟨c, before.length, by rw [decodeRef, herr, Nat.zero_add], by simp [htext], hc, ?_⟩
    rwa [htext, List.take_left]

/-- Settles O58: no trim-set byte maps, so in both cases the trimmed text holds a byte that does not map. -/
theorem decodeRefRejectsInvalidSymbols : Obligations.DecodeRefRejectsInvalidSymbols := by
  refine ⟨fun A text hvalid ⟨c, hmem, hc⟩ => decodeRef_error_of_unmapped ⟨c, hmem, ?_⟩, rfl⟩
  exact hc.elim (symbolMap_of_inTrim hvalid) id

end Sys2Proof.Machine
end

section
/-! SUPPORT. Decoding inverts encoding (44_frame_reference R185, R188): the joined symbol values are the joined bytes with
fewer than 5 zeros behind them. -/

namespace Sys2Proof.Machine

/-- Characters that map to the groups of some bytes decode to the bytes, whatever trim-set bytes are behind them. -/
theorem decodeRef_of_groups {A : Alphabet} (hvalid : cfgValid A = true) {data chars trims : List Byte} {vs : List SymVal}
    (hgroups : Groups data vs) (hmaps : List.Forall₂ (fun c v => symbolMap A c = some v) chars vs)
    (htrims : ∀ c ∈ trims, inTrim c = true) : decodeRef A (chars ++ trims) = .ok data := by
  obtain ⟨hno_trim, -⟩ := (List.forall₂_and_left (p := fun c => inTrim c = false) ..).mp
    (hmaps.imp fun c v hv => ⟨inTrim_of_symbolMap_ne_none hvalid (by simp [hv]), hv⟩)
  obtain ⟨fill, hfill, hcount, hjoin⟩ := hgroups
  obtain ⟨bytes, left, hok, hleft, hlen, hbytes⟩ := refChars_ok_of_symbols hmaps 0 0 (size := 0) (by omega)
  obtain rfl : left = fill := by omega
  rw [decodeRef, rtrim_append htrims, rtrim_of_no_trim hno_trim, hok]
  rw [hjoin, Nat.zero_div, Nat.mul_div_cancel _ (Nat.two_pow_pos _)] at hbytes
  obtain ⟨-, rfl⟩ := joined_inj (by omega) hbytes
  rfl

/-- An image of an encoding decodes to the encoded bytes, where every entry's image still maps to the entry's index and the
pad character's image is of the trim set. -/
theorem decodeRef_map_encodeRef {A : Alphabet} (hvalid : cfgValid A = true) {f : Byte → Byte}
    (hentries : ∀ v, symbolMap A (f (entry A v)) = some v) (hpad : inTrim (f Config.padChar) = true) (data : List Byte)
    (p : Bool) : decodeRef A ((encodeRef A data p).map f) = .ok data := by
  obtain ⟨vs, hgroups, hencode⟩ := encodeRef_groups A data
  rw [hencode, List.map_append, List.map_map]
  refine decodeRef_of_groups hvalid hgroups ?_ ?_
  · rw [List.forall₂_map_left_iff, List.forall₂_same]
    exact fun v _ => hentries v
  · intro c hc
    cases p <;> simp_all

/-- Every entry of a valid alphabet maps to its own index. -/
theorem symbolMap_entry {A : Alphabet} (hvalid : cfgValid A = true) (v : SymVal) : symbolMap A (entry A v) = some v :=
  symbolMap_of_accepted hvalid (.inl rfl)

/-- Decode_ref inverts Encode_ref under every valid alphabet (44_frame_reference R185). -/
theorem decodeRef_encodeRef {A : Alphabet} (hvalid : cfgValid A = true) (data : List Byte) (p : Bool) :
    decodeRef A (encodeRef A data p) = .ok data := by
  simpa using decodeRef_map_encodeRef (f := id) hvalid (symbolMap_entry hvalid) rfl data p

/-- An encoding holds entries of the alphabet and pad characters only. -/
theorem mem_encodeRef {A : Alphabet} {data : List Byte} {p : Bool} {c : Byte} (h : c ∈ encodeRef A data p) :
    (∃ v, c = entry A v) ∨ c = Config.padChar := by
  obtain ⟨vs, -, hencode⟩ := encodeRef_groups A data
  rw [hencode, List.mem_append] at h
  rcases h with hsymbol | hpad
  · obtain ⟨v, -, rfl⟩ := List.mem_map.mp hsymbol
    exact .inl ⟨v, rfl⟩
  · cases p with
    | false => simp at hpad
    | true => exact .inr (List.eq_of_mem_replicate hpad)

/-- A byte that is no lower-case letter is its own upper-case image (44_frame_reference R188). -/
theorem uc_of_not_lowerCase {c : Byte} (h : ¬(0x61#8 ≤ c ∧ c ≤ 0x7A#8)) : uc c = c := if_neg h

/-- The upper-case image of a lower-case letter (44_frame_reference R188); it is a letter, so it is not of the trim set. -/
theorem uc_of_lowerCase {c : Byte} : 0x61#8 ≤ c ∧ c ≤ 0x7A#8 → uc c = c - 0x20#8 ∧ inTrim (uc c) = false := by
  revert c; decide

/-- Settles O56: folded to lower case every entry still maps to its index, and so it does folded to upper case where no entry
is a lower-case letter; but a lower-case entry's upper-case form maps to nothing. -/
theorem decodeRefFoldsLowerCase : Obligations.DecodeRefFoldsLowerCase := by
  refine fun A data p hvalid => ⟨?lower, fun hno_lower => ?upper, fun ⟨c, hmem, hc⟩ => ?fails⟩
  case lower => exact decodeRef_map_encodeRef hvalid (fun v => symbolMap_of_accepted hvalid (.inr rfl)) rfl data p
  case upper =>
    refine decodeRef_map_encodeRef hvalid (fun v => ?_) rfl data p
    rw [uc_of_not_lowerCase (hno_lower v), symbolMap_entry hvalid]
  case fails =>
    obtain ⟨hupper, hno_trim⟩ := uc_of_lowerCase hc
    have hunmapped : symbolMap A (uc c) = none := by
      rcases mem_encodeRef hmem with ⟨v, rfl⟩ | rfl
      · rw [hupper]
        exact (foldingIsOneWay A v hvalid hc.1 hc.2).2
      · exact absurd hc (by decide)
    obtain ⟨c', i, herr, -⟩ :=
      decodeRef_error_of_unmapped ⟨uc c, mem_rtrim (List.mem_map_of_mem hmem) hno_trim, hunmapped⟩
    exact ⟨_, herr⟩

end Sys2Proof.Machine
end

section
/-! SUPPORT. Performing a list of commands one after the other (20_memory R52). -/

namespace Sys2Proof.Machine

variable {i : Instr} {cs ds : List Instr} {s t : State}

theorem execAll_cons_of_next (h : exec i s = .next t) : execAll (i :: cs) s = execAll cs t := by
  rw [execAll, h]

theorem execAll_singleton (i : Instr) (s : State) : execAll [i] s = exec i s := by
  obtain ⟨t, ht⟩ := exec_next i s
  rw [execAll_cons_of_next ht, ht]
  rfl

theorem execAll_append_of_next (h : execAll cs s = .next t) : execAll (cs ++ ds) s = execAll ds t := by
  induction cs generalizing s with
  | nil =>
    cases h
    rfl
  | cons i cs ih =>
    obtain ⟨u, hu⟩ := exec_next i s
    rw [execAll_cons_of_next hu] at h
    rw [List.cons_append, execAll_cons_of_next hu, ih h]

end Sys2Proof.Machine
end

section
/-! SUPPORT. An encode frame is Encode_ref (44_frame_reference R183): the encoder holds of the unbounded `remainder` the bits
that are not taken yet. -/

namespace Sys2Proof.Machine

/-- The `w` bits above the low `s`, of a number of which only `s + w` bits are kept. -/
theorem mod_div_group (n s w : Nat) : n % 2 ^ (s + w) / 2 ^ s = n / 2 ^ s % 2 ^ w := by
  rw [pow_add, Nat.mod_mul_right_div_self]

/-- A value joined to the low `s` bits of a number. -/
theorem join_mod {w : Nat} (n s : Nat) (v : BitVec w) :
    (n * 2 ^ w + v.toNat) % 2 ^ (s + w) = n % 2 ^ s * 2 ^ w + v.toNat := by
  have hupper : (n * 2 ^ w + v.toNat) / 2 ^ w = n := by simpa using join_div n 0 v
  rw [Nat.add_comm s, pow_add, Nat.mod_mul, hupper, Nat.mul_add_mod', Nat.mod_eq_of_lt v.isLt, Nat.add_comm, Nat.mul_comm]

/-- Shifting a value into a buffer joins it to the number of which the buffer holds the low bits (41_encoder R121,
42_decoder R147). -/
theorem toNat_shiftIn_of_eq_mod {v : BitVec 12} {n k w : Nat} (d : BitVec w) (hv : v.toNat = n % 2 ^ k)
    (hk : k + w ≤ 12) : ((v <<< w) ||| d.setWidth 12).toNat = (n * 2 ^ w + d.toNat) % 2 ^ (k + w) := by
  have hlt : v.toNat < 2 ^ k := hv ▸ Nat.mod_lt _ (Nat.two_pow_pos k)
  rw [toNat_shiftIn v d (by omega) (hlt.trans_le (Nat.pow_le_pow_right (by omega) (by omega))), hv, join_mod]

/-- The low bits of a buffer that holds low bits of a number. -/
theorem toNat_lowBits_of_eq_mod {v : BitVec 12} {n k left : Nat} (hv : v.toNat = n % 2 ^ k) (hleft : left ≤ k)
    (h12 : left ≤ 12) : (lowBits v left).toNat = n % 2 ^ left := by
  rw [toNat_lowBits v left h12, hv, Nat.mod_mod_of_dvd _ (pow_dvd_pow 2 hleft)]

/-- The value of the final partial group (41_encoder R131). -/
theorem toNat_finalGroup (acc : BitVec 12) (rs : Nat) : (finalGroup acc rs).toNat = acc.toNat * 2 ^ (5 - rs) % 2 ^ 5 := by
  have hmask : (Config.mask.setWidth 12).toNat = 2 ^ 5 - 1 := rfl
  rw [finalGroup, BitVec.toNat_setWidth, BitVec.toNat_and, hmask, Nat.and_two_pow_sub_one_eq_mod, BitVec.toNat_shiftLeft,
    Nat.shiftLeft_eq, Nat.mod_mod, Nat.mod_mod_of_dvd _ (by decide)]

/-- The loop of ENC_BYTE takes the symbols that step 2 of Encode_ref takes, where the accumulator holds the low bits of the
remainder (41_encoder R121). -/
theorem drain_eq_refDrain (A : Alphabet) (n rs : Nat) : ∀ {acc : BitVec 12}, rs ≤ 12 → acc.toNat = n % 2 ^ rs →
    ∃ left : BitVec 12, drain A rs acc = ((refDrain A rs n).1, left, (refDrain A rs n).2)
      ∧ left.toNat = n % 2 ^ (refDrain A rs n).2 := by
  induction rs using Nat.strongRecOn with
  | _ rs ih =>
    intro acc hrs hacc
    by_cases h : rs ≤ 4
    · rw [refDrain_of_le A n h]
      exact ⟨acc, drain_of_le A rs acc h, hacc⟩
    · obtain ⟨rest, rfl⟩ : ∃ rest, rs = rest + 5 := ⟨rs - 5, by omega⟩
      have hgroup : window acc rest = BitVec.ofNat 5 (n / 2 ^ rest % 2 ^ 5) := by
        apply BitVec.eq_of_toNat_eq
        rw [toNat_window acc rest (by omega), hacc, mod_div_group, BitVec.toNat_ofNat]
      obtain ⟨left, hdrain, hleft⟩ := ih rest (by omega) (by omega) (toNat_lowBits_of_eq_mod hacc (by omega) (by omega))
      refine ⟨left, ?_, by rwa [refDrain_add_five]⟩
      rw [drain_add_five, refDrain_add_five, hdrain, hgroup]

/-- The encoder's registers after bytes whose Encode_ref has the remainder `n`, `size` bits of it not taken, and their number
`count` (10_state R28 to R30). -/
structure EncoderHolds (s : State) (n size count : Nat) : Prop where
  mode : s.mode = .enc
  size_le : size ≤ 4
  rs : s.encRs.toNat = size
  acc : s.encAcc.toNat = n % 2 ^ size
  cnt : s.encCnt5.toNat = count % 5

/-- ENC_BYTE emits the symbols of one byte of Encode_ref (41_encoder R121). -/
theorem EncoderHolds.encByte {s : State} {n size count : Nat} (hs : EncoderHolds s n size count) {b : Byte}
    {here : List Byte} {rest : Nat} (hhere : refDrain s.alpha (size + 8) (n * 2 ^ 8 + b.toNat) = (here, rest)) :
    ∃ acc rs cnt, exec (.encByte b) s = .next (setEnc acc rs cnt (emit (here.map .data) s))
      ∧ EncoderHolds (setEnc acc rs cnt (emit (here.map .data) s)) (n * 2 ^ 8 + b.toNat) rest (count + 1) := by
  obtain ⟨hmode, hsize, rfl, hacc, hcnt⟩ := hs
  obtain ⟨left, hdrain, hleft⟩ := drain_eq_refDrain s.alpha _ (s.encRs.toNat + 8) (by omega)
    (toNat_shiftIn_of_eq_mod b hacc (by omega))
  obtain ⟨vs, hgroups, -, -⟩ := refDrain_groups s.alpha (s.encRs.toNat + 8) (n * 2 ^ 8 + b.toNat)
  obtain rfl : rest = (s.encRs.toNat + 8) % 5 := congrArg Prod.snd (hhere.symm.trans hgroups)
  rw [hhere] at hdrain hleft
  have hrest : (s.encRs.toNat + 8) % 5 < 5 := Nat.mod_lt _ (by omega)
  refine ⟨_, _, _, exec_encByte_of_drain b hmode hdrain, hmode, by omega, toNat_operand (by omega), hleft, ?cnt⟩
  exact (toNat_operand (by omega)).trans (by omega)

@[simp] theorem emit_nil (s : State) : emit [] s = s := by simp [emit]

theorem setEnc_emit_setEnc_emit (acc acc' : BitVec 12) (rs rs' : BitVec 4) (cnt cnt' : BitVec 3) (xs ys : List OutItem)
    (s : State) :
    setEnc acc' rs' cnt' (emit ys (setEnc acc rs cnt (emit xs s))) = setEnc acc' rs' cnt' (emit (xs ++ ys) s) := by
  simp [setEnc, emit]

/-- ENC_BYTEs emit the symbols of steps 1 and 2 of Encode_ref (44_frame_reference R183). -/
theorem EncoderHolds.encBytes {data symbols : List Byte} {last left : Nat} : ∀ {s : State} {n size count : Nat},
    EncoderHolds s n size count → refBytes s.alpha data n size = (symbols, last, left) →
    ∃ acc rs cnt, execAll (data.map .encByte) s = .next (setEnc acc rs cnt (emit (symbols.map .data) s))
      ∧ EncoderHolds (setEnc acc rs cnt (emit (symbols.map .data) s)) last left (count + data.length) := by
  induction data generalizing symbols with
  | nil =>
    intro s n size count hs hbytes
    cases hbytes
    have hsame : setEnc s.encAcc s.encRs s.encCnt5 (emit (([] : List Byte).map .data) s) = s := by simp [setEnc]
    exact ⟨s.encAcc, s.encRs, s.encCnt5, hsame.symm ▸ rfl, hsame.symm ▸ hs⟩
  | cons b data ih =>
    intro s n size count hs hbytes
    rcases hhere : refDrain s.alpha (size + 8) (n * 2 ^ 8 + b.toNat) with ⟨here, rest⟩
    rcases hlater : refBytes s.alpha data (n * 2 ^ 8 + b.toNat) rest with ⟨later, final⟩
    rw [refBytes_cons hhere hlater] at hbytes
    cases hbytes
    obtain ⟨acc, rs, cnt, hexec, hnext⟩ := hs.encByte hhere
    obtain ⟨acc', rs', cnt', hexecs, hlast⟩ := ih hnext hlater
    rw [setEnc_emit_setEnc_emit, ← List.map_append, Nat.add_assoc, Nat.add_comm 1] at hlast
    refine ⟨acc', rs', cnt', ?_, hlast⟩
    rw [List.map_cons, execAll_cons_of_next hexec, hexecs, setEnc_emit_setEnc_emit, ← List.map_append]

/-- ENC_FINISH emits the symbol of the bits that make no group, as Encode_ref does (41_encoder R131). -/
theorem EncoderHolds.finalSymbol_eq {s : State} {n size count : Nat} (hs : EncoderHolds s n size count) : finalSymbol s =
    (if size > 0 then [entry s.alpha (BitVec.ofNat 5 ((n <<< (5 - size)) &&& 31))] else []).map .data := by
  obtain ⟨-, hsize, rfl, hacc, -⟩ := hs
  have hgroup : finalGroup s.encAcc s.encRs.toNat = BitVec.ofNat 5 ((n <<< (5 - s.encRs.toNat)) &&& 31) := by
    apply BitVec.eq_of_toNat_eq
    have hfill : s.encRs.toNat + (5 - s.encRs.toNat) = 5 := by omega
    rw [toNat_finalGroup, hacc, ← Nat.mul_mod_mul_right, ← pow_add, hfill, Nat.mod_mod, BitVec.toNat_ofNat,
      Nat.shiftLeft_eq, show 31 = 2 ^ 5 - 1 by rfl, Nat.and_two_pow_sub_one_eq_mod, Nat.mod_mod]
  rw [finalSymbol, hgroup]
  split <;> rfl

/-- ENC_FINISH emits the padding of Encode_ref (41_encoder R132). -/
theorem EncoderHolds.padding_eq {s : State} {n size count : Nat} (hs : EncoderHolds s n size count) : padding s =
    (if s.pad then List.replicate (padCount (count % 5)) Config.padChar else []).map .data := by
  rw [padding, hs.cnt]
  split <;> simp

/-- Settles O52: ENC_START leaves an encoder that holds no bits, and from there the frame emits what Encode_ref answers. -/
theorem encodeFrameEqualsEncodeRef : Obligations.EncodeFrameEqualsEncodeRef := by
  intro s data p hmode hvalid
  rcases hbytes : refBytes s.alpha data 0 0 with ⟨symbols, last, left⟩
  have hstart : EncoderHolds (clearEnc (setPad p (setMode .enc s))) 0 0 0 := ⟨rfl, by omega, rfl, rfl, rfl⟩
  obtain ⟨acc, rs, cnt, hexecs, hlast⟩ := hstart.encBytes hbytes
  rw [encodeFrame, execAll_cons_of_next (exec_encStart_of_valid p hmode hvalid), execAll_append_of_next hexecs,
    execAll_singleton, exec_encFinish_of_enc hlast.mode, hlast.finalSymbol_eq, hlast.padding_eq, encodeRef, hbytes]
  simp [setEnc, setPad, setMode, emit]

end Sys2Proof.Machine
end

section
/-! SUPPORT. A decode frame is Decode_ref (44_frame_reference R184): the decoder holds of the unbounded buffer the bits that
make no byte yet. -/

namespace Sys2Proof.Machine

/-- The decoder's registers after characters whose symbol values are joined to `n`, `size` bits of it in no byte yet, with
no character held (10_state R31, R32, R34). -/
structure DecoderHolds (s : State) (n size : Nat) : Prop where
  mode : s.mode = .dec
  not_held : s.decHeld = false
  size_le : size ≤ 7
  bs : s.decBs.toNat = size
  buf : s.decBuf.toNat = n % 2 ^ size

section Accept
variable (v : SymVal) {s : State} {left : Nat}

/-- An accepted symbol that completes a byte (42_decoder R148). -/
theorem acceptSymbol_eq_of_byte (hleft : s.decBs.toNat + 5 = left + 8) :
    acceptSymbol v s = setDecPos (s.decPos + 1#32)
      (setDecBits (lowBits ((s.decBuf <<< 5) ||| v.setWidth 12) left) (BitVec.ofNat 4 left)
        (emit [.data (byteWindow ((s.decBuf <<< 5) ||| v.setWidth 12) left)] s)) := by
  simp only [acceptSymbol]
  rw [if_pos (by omega), hleft, Nat.add_sub_cancel]

/-- An accepted symbol that completes no byte (42_decoder R147). -/
theorem acceptSymbol_eq_of_bits (hbits : s.decBs.toNat + 5 ≤ 7) :
    acceptSymbol v s = setDecPos (s.decPos + 1#32)
      (setDecBits ((s.decBuf <<< 5) ||| v.setWidth 12) (BitVec.ofNat 4 (s.decBs.toNat + 5)) s) := by
  simp only [acceptSymbol]
  rw [if_neg (by omega)]

end Accept

/-- An accepted symbol emits what Decode_ref answers for it (42_decoder R147, R148). -/
theorem DecoderHolds.acceptSymbol {s : State} {n size : Nat} {c : Byte} {v : SymVal} (hs : DecoderHolds s n size)
    (hv : symbolMap s.alpha c = some v) : ∃ (emitted : List Byte) (left : Nat) (buf : BitVec 12) (bs : BitVec 4),
    acceptSymbol v s = setDecPos (s.decPos + 1#32) (setDecBits buf bs (emit (emitted.map .data) s))
      ∧ DecoderHolds (acceptSymbol v s) (n * 2 ^ 5 + v.toNat) left
      ∧ ∀ text i, refChars s.alpha (c :: text) i n size =
        (refChars s.alpha text (i + 1) (n * 2 ^ 5 + v.toNat) left).map (emitted ++ ·) := by
  obtain ⟨hmode, hheld, hsize, rfl, hbuf⟩ := hs
  have hgrown := toNat_shiftIn_of_eq_mod v hbuf (by omega)
  by_cases hbits : s.decBs.toNat + 5 ≤ 7
  · refine ⟨[], s.decBs.toNat + 5, (s.decBuf <<< 5) ||| v.setWidth 12, BitVec.ofNat 4 (s.decBs.toNat + 5),
      by rw [acceptSymbol_eq_of_bits v hbits, List.map_nil, emit_nil], ?_, fun text i => ?_⟩
    · rw [acceptSymbol_eq_of_bits v hbits]
      exact ⟨hmode, hheld, hbits, toNat_operand (by omega), hgrown⟩
    · rw [refChars_cons_bits text i n hv hbits]
      cases refChars s.alpha text (i + 1) (n * 2 ^ 5 + v.toNat) (s.decBs.toNat + 5) <;> rfl
  · obtain ⟨left, hleft⟩ : ∃ left, s.decBs.toNat + 5 = left + 8 := ⟨s.decBs.toNat - 3, by omega⟩
    have hbyte : byteWindow ((s.decBuf <<< 5) ||| v.setWidth 12) left =
        BitVec.ofNat 8 ((n * 2 ^ 5 + v.toNat) / 2 ^ left % 2 ^ 8) := by
      apply BitVec.eq_of_toNat_eq
      rw [toNat_byteWindow _ left (by omega), hgrown, hleft, mod_div_group, BitVec.toNat_ofNat]
    rw [acceptSymbol_eq_of_byte v hleft, hbyte]
    refine ⟨[_], left, _, _, rfl, ?_, fun text i => refChars_cons_byte text i n hv hleft⟩
    exact ⟨hmode, hheld, by omega, toNat_operand (by omega), toNat_lowBits_of_eq_mod hgrown (by omega) (by omega)⟩

theorem setDecBits_emit_setDecBits_emit (pos pos' : BitVec 32) (buf buf' : BitVec 12) (bs bs' : BitVec 4)
    (xs ys : List OutItem) (s : State) :
    setDecPos pos' (setDecBits buf' bs' (emit ys (setDecPos pos (setDecBits buf bs (emit xs s)))))
      = setDecPos pos' (setDecBits buf' bs' (emit (xs ++ ys) s)) := by
  simp [setDecPos, setDecBits, emit]

/-- DEC_CHARs emit the bytes of Decode_ref, where it answers bytes (44_frame_reference R184). -/
theorem DecoderHolds.decChars {text : List Byte} : ∀ {s : State} {n size i : Nat} {bytes : List Byte},
    DecoderHolds s n size → cfgValid s.alpha = true → refChars s.alpha text i n size = .ok bytes →
    ∃ buf bs, execAll (text.map .decChar) s = .next
      (setDecPos (s.decPos + BitVec.ofNat 32 text.length) (setDecBits buf bs (emit (bytes.map .data) s))) := by
  induction text with
  | nil =>
    intro s n size i bytes _ _ hok
    cases hok
    exact ⟨s.decBuf, s.decBs, by simp [execAll, setDecPos, setDecBits, emit]⟩
  | cons c text ih =>
    intro s n size i bytes hs hvalid hok
    cases hv : symbolMap s.alpha c with
    | none =>
      rw [refChars_cons_unmapped text i n hv] at hok
      cases hok
    | some v =>
      have ht : inTrim c = false := inTrim_of_symbolMap_ne_none hvalid (by simp [hv])
      obtain ⟨emitted, left, buf, bs, haccept, hnext, hcons⟩ := hs.acceptSymbol hv
      rw [haccept] at hnext
      rw [hcons] at hok
      cases hrest : refChars s.alpha text (i + 1) (n * 2 ^ 5 + v.toNat) left with
      | error e =>
        rw [hrest] at hok
        cases hok
      | ok rest =>
        rw [hrest] at hok
        cases hok
        obtain ⟨buf', bs', hexecs⟩ := ih hnext hvalid hrest
        refine ⟨buf', bs', ?_⟩
        rw [List.map_cons, execAll_cons_of_next (exec_decChar_symbol hs.mode ht hs.not_held hv), haccept, hexecs,
          setDecBits_emit_setDecBits_emit, ← List.map_append, setDecPos_decPos, List.length_cons, Nat.add_comm text.length,
          BitVec.ofNat_add, ← BitVec.add_assoc]

/-- A frame closes alike from states that differ in the decoder's registers only, since closing clears them
(42_decoder R157). -/
theorem closeDec_congr {s t : State} (h : clearDec t = clearDec s) (st : EndStatus) : closeDec st t = closeDec st s := by
  have hclear : ∀ u : State, closeDec st u = setMode .idle (emit [.endFrame st] (clearDec u)) := fun _ => rfl
  rw [hclear, hclear, h]

/-- InvalidSymbol does not touch the decoder's registers, so that they may be cleared before or after it
(60_exceptions R201). -/
theorem clearDec_raiseInvalidSymbol (ch : Byte) (pos : BitVec 32) (cmd : Word) (s : State) :
    clearDec (raiseInvalidSymbol ch pos cmd s) = raiseInvalidSymbol ch pos cmd (clearDec s) := by
  rw [raiseInvalidSymbol_eq_ite, raiseInvalidSymbol_eq_ite]
  by_cases hcode : s.errCode = .none
  · rw [if_pos hcode, if_pos (by exact hcode)]
    rfl
  · rw [if_neg hcode, if_neg (by exact hcode)]
    rfl

/-- A failed frame closes alike from states that differ in the decoder's registers only. -/
theorem closeDec_raiseInvalidSymbol_congr {s t : State} (h : clearDec t = clearDec s) (st : EndStatus) (ch : Byte)
    (pos : BitVec 32) (cmd : Word) :
    closeDec st (raiseInvalidSymbol ch pos cmd t) = closeDec st (raiseInvalidSymbol ch pos cmd s) :=
  closeDec_congr (by rw [clearDec_raiseInvalidSymbol, h, clearDec_raiseInvalidSymbol]) st

/-- Trim-set characters up to DEC_FINISH are dropped (42_decoder R159). -/
theorem execAll_trims_decFinish {trims : List Byte} (htrims : ∀ c ∈ trims, inTrim c = true) : ∀ {s : State}, s.mode = .dec →
    execAll (trims.map .decChar ++ [.decFinish]) s = .next (closeDec .ok s) := by
  induction trims with
  | nil =>
    intro s hm
    rw [List.map_nil, List.nil_append, execAll_singleton, exec_decFinish_of_dec hm]
  | cons c trims ih =>
    intro s hm
    obtain ⟨hc, hrest⟩ := List.forall_mem_cons.mp htrims
    rw [List.map_cons, List.cons_append]
    cases hh : s.decHeld with
    | true =>
      rw [execAll_cons_of_next (exec_decChar_holdLater hm hc hh), ih hrest (by exact hm), closeDec_congr (s := s) (by rfl)]
    | false =>
      rw [execAll_cons_of_next (exec_decChar_holdFirst hm hc hh), ih hrest (by exact hm), closeDec_congr (s := s) (by rfl)]

/-- After an error the frame's characters are ignored up to DEC_FINISH (42_decoder R155, R157). -/
theorem execAll_chars_decFinish_of_decErr (text : List Byte) {s : State} (hm : s.mode = .decErr) :
    execAll (text.map .decChar ++ [.decFinish]) s = .next (closeDec .invalid s) := by
  induction text with
  | nil => rw [List.map_nil, List.nil_append, execAll_singleton, exec_decFinish_of_decErr hm]
  | cons c text ih => rwa [List.map_cons, List.cons_append, execAll_cons_of_next (exec_decChar_of_decErr hm)]

/-- A held run fails the frame at the next character outside the trim set (42_decoder R151). -/
theorem execAll_heldNotTrailing {text : List Byte} {d : Byte} (hd : text.find? (fun x => !inTrim x) = some d) :
    ∀ {s : State}, s.mode = .dec → s.decHeld = true → execAll (text.map .decChar ++ [.decFinish]) s =
      .next (closeDec .invalid (raiseInvalidSymbol s.decHchar s.decHpos (encode (.decChar d)) s)) := by
  induction text with
  | nil => cases hd
  | cons c text ih =>
    intro s hm hh
    rw [List.map_cons, List.cons_append]
    cases ht : inTrim c with
    | true =>
      have hd : text.find? (fun x => !inTrim x) = some d := by simpa [List.find?_cons, ht] using hd
      rw [execAll_cons_of_next (exec_decChar_holdLater hm ht hh)]
      rw [ih hd (by exact hm) (by exact hh), setDecPos_decHchar, setDecPos_decHpos,
        closeDec_raiseInvalidSymbol_congr (s := s) (by rfl)]
    | false =>
      obtain rfl : c = d := by simpa [List.find?_cons, ht] using hd
      rw [execAll_cons_of_next (exec_decChar_heldNotTrailing hm ht hh), execAll_chars_decFinish_of_decErr text rfl]

/-- A character that does not map fails the frame: at once, or if it is of the trim set, at the next character that is not
(42_decoder R151, R152). -/
theorem execAll_unmapped {text : List Byte} {c d : Byte} (hd : (c :: text).find? (fun x => !inTrim x) = some d)
    {s : State} (hm : s.mode = .dec) (hh : s.decHeld = false) (hv : symbolMap s.alpha c = none) :
    execAll ((c :: text).map .decChar ++ [.decFinish]) s =
      .next (closeDec .invalid (raiseInvalidSymbol c s.decPos (encode (.decChar d)) s)) := by
  rw [List.map_cons, List.cons_append]
  cases ht : inTrim c with
  | true =>
    have hd : text.find? (fun x => !inTrim x) = some d := by simpa [List.find?_cons, ht] using hd
    rw [execAll_cons_of_next (exec_decChar_holdFirst hm ht hh)]
    rw [execAll_heldNotTrailing hd (by exact hm) (by rfl), setDecPos_decHchar, setDecPos_decHpos, setHeld_decHchar,
      setHeld_decHpos, closeDec_raiseInvalidSymbol_congr (s := s) (by rfl)]
  | false =>
    obtain rfl : c = d := by simpa [List.find?_cons, ht] using hd
    rw [execAll_cons_of_next (exec_decChar_unmapped hm ht hh hv), execAll_chars_decFinish_of_decErr text rfl]

/-- What a frame that fails leaves (44_frame_reference R184). -/
theorem closeDec_raise_decChars (c : Byte) (cmd : Word) (pos p : BitVec 32) (buf : BitVec 12) (bs : BitVec 4)
    (items : List OutItem) (s : State) :
    closeDec .invalid (raiseInvalidSymbol c pos cmd
        (setDecPos p (setDecBits buf bs (emit items (clearDec (setMode .dec s))))))
      = { record .invalidSymbol c pos cmd s with
          mode := .idle, decBuf := 0#12, decBs := 0#4, decPos := 0#32, decHeld := false, decHchar := 0#8, decHpos := 0#32
          out := s.out ++ items ++ [.endFrame .invalid] } := by
  by_cases hcode : s.errCode = .none <;> simp [record, hcode, setHeld, setDecPos, setDecBits, setMode, emit]

/-- Where Decode_ref fails: the characters before the one it names are decoded, and from there on one is not of the trim set
(44_frame_reference R184). -/
theorem split_of_decodeRef_error {A : Alphabet} (hvalid : cfgValid A = true) {text : List Byte} {c : Byte} {i : Nat}
    (herr : decodeRef A text = .error (c, i)) : ∃ before after bytes d, text = before ++ c :: after ∧ i = before.length
      ∧ symbolMap A c = none ∧ refChars A before 0 0 0 = .ok bytes ∧ decodeRef A before = .ok bytes
      ∧ (c :: after).find? (fun x => !inTrim x) = some d := by
  obtain ⟨trims, htext, -⟩ := exists_rtrim_append text
  rw [decodeRef] at herr
  rcases refChars_cases A (rtrim text) 0 0 (size := 0) (by omega) with
    ⟨bytes, hok, -⟩ | ⟨before, c', after, bytes, hrtrim, hfail, hc, hok, hall⟩
  · rw [hok] at herr
    cases herr
  · rw [hfail] at herr
    cases herr
    have hbefore : rtrim before = before := rtrim_of_no_trim fun x hx => inTrim_of_symbolMap_ne_none hvalid (hall x hx)
    obtain ⟨x, hx, hno_trim⟩ := exists_not_inTrim_of_rtrim_eq hrtrim (by simp)
    obtain ⟨d, hd⟩ := Option.isSome_iff_exists.mp
      (List.find?_isSome.mpr ⟨x, List.mem_append_left trims hx, by simp [hno_trim]⟩ :
        ((c :: after ++ trims).find? (fun x => !inTrim x)).isSome)
    refine ⟨before, after ++ trims, bytes, d, ?_, Nat.zero_add _, hc, hok, by rw [decodeRef, hbefore, hok], hd⟩
    rw [htext, hrtrim, List.append_assoc, List.cons_append]

/-- Settles O53: DEC_START leaves a decoder that holds no bits; from there the characters before the first that does not map
emit what Decode_ref answers for them, and the rest is dropped or fails the frame. -/
theorem decodeFrameEqualsDecodeRef : Obligations.DecodeFrameEqualsDecodeRef := by
  intro s text hmode hvalid
  have hstart : DecoderHolds (clearDec (setMode .dec s)) 0 0 := ⟨rfl, rfl, by omega, rfl, rfl⟩
  rw [decodeFrame, execAll_cons_of_next (exec_decStart_of_valid hmode hvalid)]
  refine ⟨fun bytes hok => ?ok, fun c i herr => ?error⟩
  case ok =>
    obtain ⟨trims, htext, htrims⟩ := exists_rtrim_append text
    obtain ⟨buf, bs, hexecs⟩ := hstart.decChars hvalid hok
    rw [htext, List.map_append, List.append_assoc, execAll_append_of_next hexecs, execAll_trims_decFinish htrims rfl]
    simp [setHeld, setDecPos, setDecBits, setMode, emit]
  case error =>
    obtain ⟨before, after, bytes, d, rfl, rfl, hc, hchars, hok, hd⟩ := split_of_decodeRef_error hvalid herr
    obtain ⟨buf, bs, hexecs⟩ := hstart.decChars hvalid hchars
    refine ⟨bytes, d, by rwa [List.take_left], by rwa [List.drop_left], ?_⟩
    rw [List.map_append, List.append_assoc, execAll_append_of_next hexecs,
      execAll_unmapped hd (by rfl) (by rfl) (by exact hc), closeDec_raise_decChars]
    simp

end Sys2Proof.Machine
end

section
/-! SUPPORT. Frames one after the other (44_frame_reference R185, R189): what the frame of a source call appends to OUT. -/

namespace Sys2Proof.Machine

/-- Decode_ref answers nothing for the empty text (44_frame_reference R189). -/
theorem decodeRef_nil (A : Alphabet) : decodeRef A [] = .ok [] := rfl

/-- Encode_ref answers nothing for no bytes (44_frame_reference R189). -/
theorem encodeRef_nil (A : Alphabet) (p : Bool) : encodeRef A [] p = [] := by
  have hpad : padCount 0 = 0 := rfl
  simp [encodeRef, refBytes, hpad]

section
variable {s : State} (hmode : s.mode = .idle) (hvalid : cfgValid s.alpha = true)
include hmode hvalid

/-- An encode frame appends Encode_ref of its bytes, and is followed by a frame under the same alphabet. -/
theorem exists_execAll_encodeFrame (data : List Byte) (p : Bool) : ∃ t, execAll (encodeFrame data p) s = .next t
    ∧ t.mode = .idle ∧ t.alpha = s.alpha ∧ t.out = s.out ++ ((encodeRef s.alpha data p).map .data ++ [.endFrame .ok]) :=
  ⟨_, encodeFrameEqualsEncodeRef s data p hmode hvalid, rfl, rfl, List.append_assoc ..⟩

/-- A decode frame appends Decode_ref of its characters, where it answers bytes. -/
theorem exists_execAll_decodeFrame {text bytes : List Byte} (hok : decodeRef s.alpha text = .ok bytes) :
    ∃ t, execAll (decodeFrame text) s = .next t ∧ t.out = s.out ++ (bytes.map .data ++ [.endFrame .ok]) :=
  ⟨_, (decodeFrameEqualsDecodeRef s text hmode hvalid).1 bytes hok, List.append_assoc ..⟩

end

/-- Settles O54: of the reference functions by `decodeRef_encodeRef`, and of the frames because the encode frame leaves IDLE
and the alphabet as they were. -/
theorem decodingInvertsEncoding : Obligations.DecodingInvertsEncoding := by
  refine ⟨fun A data p hvalid => decodeRef_encodeRef hvalid data p, fun s data p hmode hvalid => ?_⟩
  obtain ⟨u, hencode, humode, hualpha, huout⟩ := exists_execAll_encodeFrame hmode hvalid data p
  rw [← hualpha] at hvalid
  have hok : decodeRef u.alpha (encodeRef u.alpha data p) = .ok data := decodeRef_encodeRef hvalid data p
  obtain ⟨t, hdecode, htout⟩ := exists_execAll_decodeFrame humode hvalid hok
  rw [hualpha] at hdecode
  exact ⟨t, (execAll_append_of_next hencode).trans hdecode, by rw [htout, huout]⟩

/-- Settles O59: the empty frames are the frames of O52 and O53 for empty input. -/
theorem emptyInputGivesEmptyOutput : Obligations.EmptyInputGivesEmptyOutput := by
  refine ⟨fun A p => ⟨encodeRef_nil A p, decodeRef_nil A⟩, fun s p hmode hvalid => ⟨?_, ?_⟩⟩
  · obtain ⟨t, hexec, -, -, hout⟩ := exists_execAll_encodeFrame hmode hvalid [] p
    exact ⟨t, hexec, by rw [hout, encodeRef_nil]; rfl⟩
  · exact exists_execAll_decodeFrame hmode hvalid (decodeRef_nil s.alpha)

end Sys2Proof.Machine
end

section
/-! SUPPORT. Frames are independent of what came before (44_frame_reference R192): what a command appends, and the mode and
the registers that matter after it, do not depend on the rest of the state. -/

namespace Sys2Proof.Machine

/-- Two states of which the next frame, or the rest of the active one, appends the same: the mode and the alphabet are
the same, and so are the registers of the active frame. -/
structure SameFrame (s t : State) : Prop where
  mode : t.mode = s.mode
  alpha : t.alpha = s.alpha
  encoder : s.mode = .enc → SameEncoder s t
  decoder : s.mode = .dec → SameDecoder s t

theorem SameFrame.of_idle {s t : State} (hs : s.mode = .idle) (ht : t.mode = .idle) (halpha : t.alpha = s.alpha) :
    SameFrame s t where
  mode := ht.trans hs.symm
  alpha := halpha
  encoder hm := by simp [hs] at hm
  decoder hm := by simp [hs] at hm

/-- Record touches only the error capture, whatever it records (60_exceptions R205). -/
theorem SameFrame.record {s t : State} (h : SameFrame s t) (code code' : ErrCode) (ch ch' : Byte) (pos pos' : BitVec 32)
    (cmd cmd' : Word) : SameFrame (record code ch pos cmd s) (record code' ch' pos' cmd' t) where
  mode := by simp [h.mode]
  alpha := by simp [h.alpha]
  encoder hm := by simpa [SameEncoder] using h.encoder (by simpa using hm)
  decoder hm := by simpa [SameDecoder] using h.decoder (by simpa using hm)

/-- A command outside its legal modes records SEQUENCE (60_exceptions R204, R210). -/
theorem exec_of_illegal_mode {i : Instr} {s : State} (hlegal : legal i s.mode = false) :
    exec i s = .next (raiseSequence (encode i) s) := by
  cases i with
  | nop => simp [legal] at hlegal
  | clear => simp [legal] at hlegal
  | cfgAlpha idx d => exact exec_cfgAlpha_of_not_idle idx d (by simpa [legal] using hlegal)
  | cfgDefault => exact exec_cfgDefault_of_not_idle (by simpa [legal] using hlegal)
  | encStart p => exact exec_encStart_of_not_idle p (by simpa [legal] using hlegal)
  | encByte d => exact exec_encByte_of_not_enc d (by simpa [legal] using hlegal)
  | encFinish => exact exec_encFinish_of_not_enc (by simpa [legal] using hlegal)
  | decStart => exact exec_decStart_of_not_idle (by simpa [legal] using hlegal)
  | decChar d => exact exec_decChar_of_no_decode_frame (by cases hm : s.mode <;> simp_all [legal])
  | decFinish => exact exec_decFinish_of_no_decode_frame (by cases hm : s.mode <;> simp_all [legal])

/-- A START under an invalid alphabet records an error, whatever the mode is (60_exceptions R211). -/
theorem exec_start_of_invalid {i : Instr} {s : State} (hstart : (∃ p, i = .encStart p) ∨ i = .decStart)
    (hvalid : cfgValid s.alpha = false) : ∃ code, exec i s = .next (record code 0#8 0#32 (encode i) s) := by
  by_cases hm : s.mode = .idle
  · obtain ⟨p, rfl⟩ | rfl := hstart
    · exact ⟨_, exec_encStart_of_invalid p hm hvalid⟩
    · exact ⟨_, exec_decStart_of_invalid hm hvalid⟩
  · refine ⟨_, exec_of_illegal_mode ?_⟩
    obtain ⟨p, rfl⟩ | rfl := hstart <;> simpa [legal] using hm

/-- A command appends the same items from both states, and leaves them the same where it matters. -/
theorem SameFrame.exec {i : Instr} {s t s' : State} (h : SameFrame s t) (hexec : exec i s = .next s') :
    ∃ t' items, exec i t = .next t' ∧ s'.out = s.out ++ items ∧ t'.out = t.out ++ items ∧ SameFrame s' t' := by
  have hmode {m : Mode} (hm : s.mode = m) : t.mode = m := h.mode.trans hm
  cases exec_effect hexec with
  | nop => exact ⟨t, [], rfl, by simp, by simp, h⟩
  | clear => exact ⟨_, _, exec_clear t, rfl, by simp [h.mode], .of_idle rfl rfl h.alpha⟩
  | sequence hlegal =>
    exact ⟨_, [], exec_of_illegal_mode (by rwa [h.mode]), by simp, by simp, h.record ..⟩
  | configMismatch hstart hvalid =>
    obtain ⟨code, hcode⟩ := exec_start_of_invalid hstart (h.alpha ▸ hvalid)
    exact ⟨_, [], hcode, by simp, by simp, h.record ..⟩
  | cfgAlpha idx d hm =>
    exact ⟨_, [], exec_cfgAlpha_of_idle idx d (hmode hm), by simp, by simp, .of_idle hm (hmode hm) (by simp [h.alpha])⟩
  | cfgDefault hm => exact ⟨_, [], exec_cfgDefault_of_idle (hmode hm), by simp, by simp, .of_idle hm (hmode hm) rfl⟩
  | encStart p hm hvalid =>
    exact ⟨_, [], exec_encStart_of_valid p (hmode hm) (h.alpha ▸ hvalid), by simp, by simp,
      ⟨rfl, h.alpha, fun _ => ⟨rfl, rfl, rfl, rfl⟩, nofun⟩⟩
  | encByte d hm hr =>
    obtain ⟨hacc, hrs, hcnt, hpad⟩ := h.encoder hm
    exact ⟨_, _, exec_encByte_of_drain d (hmode hm) (by rw [hacc, hrs, h.alpha, ← hr]), rfl, rfl,
      ⟨h.mode, h.alpha, fun _ => ⟨rfl, rfl, by simp [hcnt], hpad⟩, fun hdec => by simp [hm] at hdec⟩⟩
  | encFinish hm =>
    obtain ⟨hacc, hrs, hcnt, hpad⟩ := h.encoder hm
    have hitems : finalSymbol t ++ padding t = finalSymbol s ++ padding s := by
      simp [finalSymbol, padding, hacc, hrs, hcnt, hpad, h.alpha]
    exact ⟨_, _, exec_encFinish_of_enc (hmode hm), rfl, by simp [← hitems], .of_idle rfl rfl h.alpha⟩
  | decStart hm hvalid =>
    exact ⟨_, [], exec_decStart_of_valid (hmode hm) (h.alpha ▸ hvalid), by simp, by simp,
      ⟨rfl, h.alpha, nofun, fun _ => ⟨rfl, rfl, rfl, rfl, rfl, rfl⟩⟩⟩
  | holdFirst hm ht hh =>
    obtain ⟨hbuf, hbs, hpos, hheld, hchar, hhpos⟩ := h.decoder hm
    exact ⟨_, [], exec_decChar_holdFirst (hmode hm) ht (hheld.trans hh), by simp, by simp,
      ⟨h.mode, h.alpha, fun henc => by simp [hm] at henc, fun _ => ⟨hbuf, hbs, by simp [hpos], rfl, rfl, hpos⟩⟩⟩
  | holdLater hm ht hh =>
    obtain ⟨hbuf, hbs, hpos, hheld, hchar, hhpos⟩ := h.decoder hm
    exact ⟨_, [], exec_decChar_holdLater (hmode hm) ht (hheld.trans hh), by simp, by simp,
      ⟨h.mode, h.alpha, fun henc => by simp [hm] at henc, fun _ => ⟨hbuf, hbs, by simp [hpos], hheld, hchar, hhpos⟩⟩⟩
  | heldNotTrailing hm ht hh =>
    obtain ⟨-, -, -, hheld, -, -⟩ := h.decoder hm
    exact ⟨_, [], exec_decChar_heldNotTrailing (hmode hm) ht (hheld.trans hh), by simp, by simp,
      ⟨rfl, by simp [h.alpha], nofun, nofun⟩⟩
  | unmapped hm ht hh hv =>
    obtain ⟨-, -, -, hheld, -, -⟩ := h.decoder hm
    exact ⟨_, [], exec_decChar_unmapped (hmode hm) ht (hheld.trans hh) (h.alpha ▸ hv), by simp, by simp,
      ⟨rfl, by simp [h.alpha], nofun, nofun⟩⟩
  | @symbolByte d v buf n hm ht hh hv hgrown hn =>
    obtain ⟨hbuf, hbs, hpos, hheld, hchar, hhpos⟩ := h.decoder hm
    subst hgrown
    refine ⟨_, _, exec_decChar_symbol (hmode hm) ht (hheld.trans hh) (h.alpha ▸ hv), rfl, ?_, ?_⟩
    all_goals rw [acceptSymbol_eq_of_byte v (left := n) (by rwa [hbs]), hbuf]
    · rfl
    · exact ⟨h.mode, h.alpha, fun henc => by simp [hm] at henc, fun _ => ⟨rfl, rfl, by simp [hpos], hheld, hchar, hhpos⟩⟩
  | @symbolBits d v hm ht hh hv hbits =>
    obtain ⟨hbuf, hbs, hpos, hheld, hchar, hhpos⟩ := h.decoder hm
    refine ⟨_, [], exec_decChar_symbol (hmode hm) ht (hheld.trans hh) (h.alpha ▸ hv), by simp, ?_, ?_⟩
    all_goals rw [acceptSymbol_eq_of_bits v (by rwa [hbs])]
    · simp
    · exact ⟨h.mode, h.alpha, fun henc => by simp [hm] at henc,
        fun _ => ⟨by simp [hbuf], by simp [hbs], by simp [hpos], hheld, hchar, hhpos⟩⟩
  | ignored d hm => exact ⟨t, [], exec_decChar_of_decErr (hmode hm), by simp, by simp, h⟩
  | decFinish hm =>
    obtain ⟨hm, rfl⟩ | ⟨hm, rfl⟩ := hm
    · exact ⟨_, _, exec_decFinish_of_dec (hmode hm), rfl, rfl, .of_idle rfl rfl h.alpha⟩
    · exact ⟨_, _, exec_decFinish_of_decErr (hmode hm), rfl, rfl, .of_idle rfl rfl h.alpha⟩

/-- Commands append the same items from both states, one after the other. -/
theorem SameFrame.execAll (cs : List Instr) : ∀ {s t : State}, SameFrame s t →
    ∃ s' t' items, execAll cs s = .next s' ∧ execAll cs t = .next t'
      ∧ s'.out = s.out ++ items ∧ t'.out = t.out ++ items ∧ SameFrame s' t' := by
  induction cs with
  | nil => exact fun {s t} h => ⟨s, t, [], rfl, rfl, by simp, by simp, h⟩
  | cons i cs ih =>
    intro s t h
    obtain ⟨s', hs'⟩ := exec_next i s
    obtain ⟨t', items, ht', hsout, htout, hnext⟩ := h.exec hs'
    obtain ⟨s'', t'', later, hs'', ht'', hsout', htout', hlast⟩ := ih hnext
    exact ⟨s'', t'', items ++ later, (execAll_cons_of_next hs').trans hs'', (execAll_cons_of_next ht').trans ht'',
      by rw [hsout', hsout, List.append_assoc], by rw [htout', htout, List.append_assoc], hlast⟩

/-- Settles O60: in IDLE no frame is active, so the mode and the alphabet are all that matters. -/
theorem framesDependOnlyOnAlphabetAndCommands : Obligations.FramesDependOnlyOnAlphabetAndCommands := by
  intro cs s t hs ht halpha
  obtain ⟨s', t', items, hs', ht', hsout, htout, hlast⟩ := (SameFrame.of_idle hs ht halpha.symm).execAll cs
  exact ⟨s', t', items, hs', ht', hsout, htout, hlast.mode.symm, hlast.alpha.symm⟩

end Sys2Proof.Machine
end

section
/-! SUPPORT. The block goes on after every interaction (60_exceptions R213, R214, R223). -/

namespace Sys2Proof.Machine

/-- On an empty port the block's turn leaves the state as it is (60_exceptions R223). -/
theorem takeTurn_of_empty_port {s : State} (hport : s.cmdPort = []) : takeTurn s = .next s := by
  rw [takeTurn, hport]

/-- The block's turn answers a next state: every word does, and a held one leaves the state. -/
theorem takeTurn_next (s : State) : ∃ t, takeTurn s = .next t := by
  cases hport : s.cmdPort with
  | nil => exact ⟨s, takeTurn_of_empty_port hport⟩
  | cons w later =>
    obtain ⟨t, ht⟩ := performWord_next w { s with cmdPort := later }
    exact ⟨_, takeTurn_of_performWord hport ht⟩

/-- Every action at the ports answers a next state. -/
theorem act_next (a : HostAction) (s : State) : ∃ t, act a s = .next t := by
  cases a with
  | turn => exact takeTurn_next s
  | _ => exact ⟨_, rfl⟩

/-- Every step answers a next state. -/
theorem step_next (s : State) : ∃ t, step s = .next t := by
  unfold step nextAction
  split <;> exact act_next ..

/-- Settles O43: every action at the ports answers a next state, and an empty inbox is the block's turn. -/
theorem everyStepGoesOn : Obligations.EveryStepGoesOn := by
  refine ⟨step_next, fun s hinbox hport => ?_⟩
  have hturn : step s = takeTurn { s with inbox := [] } := step_of_turn (.inr ⟨hinbox, rfl⟩)
  rw [hturn, ← hinbox]
  exact takeTurn_of_empty_port hport

end Sys2Proof.Machine
end

section
/-! SUPPORT. What the errors do: a command that raises one only records it (60_exceptions R202, R204, R210, R212). -/

namespace Sys2Proof.Machine

/-- Settles O21: for both STARTs, what is raised is Record of CONFIG_MISMATCH. -/
theorem invalidAlphabetRefusesStart : Obligations.InvalidAlphabetRefusesStart := by
  rintro s i (rfl | ⟨p, rfl⟩) hm hvalid
  · exact exec_decStart_of_invalid hm hvalid
  · exact exec_encStart_of_invalid p hm hvalid

/-- A legal command never captures SEQUENCE (60_exceptions R210): its effect records another error, or none. -/
theorem Effect.errCode_ne_sequence {i : Instr} {s t : State} (h : Effect s i t) (hlegal : legal i s.mode = true)
    (hnone : s.errCode = .none) : t.errCode ≠ .sequence := by
  cases h with
  | sequence hillegal => simp [hlegal] at hillegal
  | _ => simp [hnone]

/-- Settles O35: outside its legal modes every command raises SEQUENCE, and no effect of a legal command captures it. -/
theorem sequenceErrorExactlyOutsideLegalModes : Obligations.SequenceErrorExactlyOutsideLegalModes := by
  refine fun i s => ⟨exec_of_illegal_mode, fun hlegal hnone => ?_⟩
  obtain ⟨t, ht⟩ := exec_next i s
  exact ⟨t, ht, (exec_effect ht).errCode_ne_sequence hlegal hnone⟩

/-- A command other than CLEAR keeps the error capture, or does nothing but Record, or is a DEC_CHAR that records
InvalidSymbol and changes MODE to DEC_ERR (60_exceptions R212). -/
theorem Effect.capture_cases {i : Instr} {s t : State} (h : Effect s i t) (hi : i ≠ .clear) :
    SameCapture s t
    ∨ (∃ code, (code = .configMismatch ∨ code = .sequence) ∧ t = record code 0#8 0#32 (encode i) s)
    ∨ ((∃ d, i = .decChar d) ∧ s.mode = .dec ∧ ∃ ch pos, t = setMode .decErr (record .invalidSymbol ch pos (encode i) s)) := by
  cases h with
  | clear => exact absurd rfl hi
  | sequence => exact .inr (.inl ⟨_, .inr rfl, rfl⟩)
  | configMismatch => exact .inr (.inl ⟨_, .inl rfl, rfl⟩)
  | heldNotTrailing hm | unmapped hm => exact .inr (.inr ⟨⟨_, rfl⟩, hm, _, _, rfl⟩)
  | _ => exact .inl (by simp [SameCapture])

/-- Settles O36: a word is recorded as illegal, or its command has one of the effects that keep the capture or record in
it; the word recorded is the word performed, since it is the command's only encoding. -/
theorem errorsChangeOnlyTheCapture : Obligations.ErrorsChangeOnlyTheCapture := by
  intro w s t h hclear
  obtain ⟨i, hi, hexec⟩ | ⟨-, rfl⟩ := performWord_cases h
  · obtain rfl : encode i = w := encodeOfDecodeIsIdentity w i hi
    obtain hsame | ⟨code, hcode, rfl⟩ | ⟨⟨d, rfl⟩, hm, hraised⟩ :=
      (exec_effect hexec).capture_cases (by rintro rfl; exact hclear hi)
    · exact .inl hsame
    · exact .inr (.inl ⟨code, by rcases hcode with rfl | rfl <;> simp, rfl⟩)
    · exact .inr (.inr ⟨⟨d, hi⟩, hm, hraised⟩)
  · exact .inr (.inl ⟨.illegalCmd, by simp, rfl⟩)

end Sys2Proof.Machine
end

section
/-! SUPPORT. The first error stays captured until CLEAR or reset (60_exceptions R205). -/

namespace Sys2Proof.Machine

/-- From `s` to `t` the captured error stays as it is, and ERR_OVF, once set, stays set. -/
def KeepsFirstError (s t : State) : Prop :=
  t.errCode = s.errCode ∧ t.errChar = s.errChar ∧ t.errPos = s.errPos ∧ t.errCmd = s.errCmd
    ∧ (s.errOvf = true → t.errOvf = true)

theorem SameCapture.keepsFirstError {s t : State} (h : SameCapture s t) : KeepsFirstError s t := by
  obtain ⟨hcode, hovf, hchar, hpos, hcmd⟩ := h
  exact ⟨hcode, hchar, hpos, hcmd, hovf.trans⟩

theorem record_keepsFirstError {s : State} (hs : s.errCode ≠ .none) (code : ErrCode) (ch : Byte) (pos : BitVec 32)
    (cmd : Word) : KeepsFirstError s (record code ch pos cmd s) := by
  simp [KeepsFirstError, hs]

/-- A word other than CLEAR keeps a captured error. -/
theorem performWord_keepsFirstError {w : Word} {s t : State} (hs : s.errCode ≠ .none) (h : performWord w s = .next t)
    (hclear : decode w ≠ some .clear) : KeepsFirstError s t := by
  obtain hsame | ⟨code, -, rfl⟩ | ⟨-, -, ch, pos, rfl⟩ := errorsChangeOnlyTheCapture w s t h hclear
  · exact hsame.keepsFirstError
  · exact record_keepsFirstError hs code 0#8 0#32 w
  · exact record_keepsFirstError hs .invalidSymbol ch pos w

/-- The error capture belongs to the block. -/
theorem sameCapture_of_blockOf_eq {s t : State} (h : blockOf t = blockOf s) : SameCapture s t := by
  have hsame : SameCapture (blockOf s) (blockOf t) := h ▸ ⟨rfl, rfl, rfl, rfl, rfl⟩
  exact hsame

/-- Settles O34: a step that is no reset leaves the block, or performs a word, which is CLEAR or keeps the error. -/
theorem recordKeepsTheFirstError : Obligations.RecordKeepsTheFirstError := by
  refine ⟨fun code ch pos cmd s => ⟨fun hnone => if_pos hnone, fun hs => if_neg hs⟩, fun s t h hs => ?_⟩
  obtain ⟨rest, hinbox, -⟩ | hblock | ⟨rest, w, later, hport, hw⟩ := step_block h
  · exact .inr (.inl ⟨rest, hinbox⟩)
  · exact .inl (sameCapture_of_blockOf_eq hblock).keepsFirstError
  · by_cases hclear : decode w = some .clear
    · obtain ⟨-, -, hlater, -, -⟩ := performWord_samePorts hw
      exact .inr (.inr ⟨w, later, hport, hclear, hlater⟩)
    · have hkept := performWord_keepsFirstError (s := { s with inbox := rest, cmdPort := later }) hs hw hclear
      exact .inl hkept

end Sys2Proof.Machine
end

section
/-! SUPPORT. The instances of a platform (60_exceptions R220). -/

namespace Sys2Proof.Machine

/-- The state after one step, or the same state where there is none. -/
def stepped (s : State) : State :=
  match step s with
  | .next t => t
  | .fault _ => s
  | .refused _ => s

theorem stepped_of_step {s t : State} (h : step s = .next t) : stepped s = t := by
  rw [stepped, h]

/-- `stepInstance k` applies `stepped` at place `k` of the list of states, and nowhere else. -/
theorem stepInstance_eq_modify (k : Nat) (p : Platform) : stepInstance k p = ⟨p.instances.modify k stepped⟩ := by
  rw [List.modify_eq_set_getElem?]
  cases hs : p.instances[k]? with
  | none => simp [stepInstance, hs]
  | some s =>
    obtain ⟨t, ht⟩ := step_next s
    simp [stepInstance, hs, ht, stepped_of_step ht]

/-- Settles O51: changes at two places of a list do not meet. -/
theorem instancesAreIndependent : Obligations.InstancesAreIndependent := by
  intro p j k hne
  simp only [stepInstance_eq_modify]
  exact ⟨List.getElem?_modify_ne _ _ hne.symm, congrArg Platform.mk (List.modify_modify_ne _ _ _ hne.symm)⟩

end Sys2Proof.Machine
end

section
/-! SUPPORT. How many items a command emits (70_reset_and_hazards R241, R246). -/

namespace Sys2Proof.Machine

theorem length_finalSymbol_le (s : State) : (finalSymbol s).length ≤ 1 := by
  unfold finalSymbol
  split <;> simp

theorem length_padding_le (s : State) : (padding s).length ≤ 6 := by
  unfold padding
  split
  · simpa using padCount_le s.encCnt5
  · simp

/-- The items a command appends to OUT: at most 8, whatever the state; at most the table's number when at most 4 bits wait
in the encoder; and the END item alone for a legal DEC_FINISH (70_reset_and_hazards R246). -/
theorem Effect.appended_items {i : Instr} {s t : State} (h : Effect s i t) :
    ∃ items, t.out = s.out ++ items ∧ items.length ≤ 8 ∧ (s.encRs.toNat ≤ 4 → items.length ≤ maxItems i)
      ∧ (i = .decFinish → legal i s.mode = true → items.length = 1) := by
  cases h with
  | clear =>
    refine ⟨if s.mode = .idle then [] else [.endFrame .aborted], rfl, ?_⟩
    split <;> simp [maxItems]
  | @encByte d hm r hr =>
    -- one symbol for every 5 of the bits that wait and the 8 that come in
    have hcount : (r.1.map OutItem.data).length = (s.encRs.toNat + 8) / 5 := by
      rw [List.length_map, hr]
      exact (drain_spec ..).2
    have hrs := s.encRs.isLt
    refine ⟨r.1.map .data, rfl, by omega, fun hle => ?_, by simp⟩
    rw [hcount, maxItems]
    omega
  | encFinish =>
    have hsymbol := length_finalSymbol_le s
    have hpadding := length_padding_le s
    have hcount : (finalSymbol s ++ padding s ++ [OutItem.endFrame .ok]).length ≤ 8 := by
      simp only [List.length_append, List.length_singleton]
      omega
    exact ⟨_, rfl, hcount, fun _ => hcount, by simp⟩
  | symbolByte | decFinish => exact ⟨_, rfl, by simp, by simp [maxItems], by simp⟩
  | sequence hillegal => exact ⟨[], by simp, by simp, by simp, by simp [hillegal]⟩
  | configMismatch hstart =>
    exact ⟨[], by simp, by simp, by simp, by obtain ⟨p, rfl⟩ | rfl := hstart <;> simp⟩
  | _ => exact ⟨[], by simp, by simp, by simp, by simp⟩

/-- Settles O37: by the frame invariants at most 4 bits wait in the encoder, which bounds the symbols of ENC_BYTE. -/
theorem itemsPerCommandAreBounded : Obligations.ItemsPerCommandAreBounded := by
  intro i s hs
  obtain ⟨t, ht⟩ := exec_next i s
  obtain ⟨items, hout, -, htable, hfinish⟩ := (exec_effect ht).appended_items
  exact ⟨t, items, ht, hout, htable hs.encRs_le, hfinish⟩

/-- Settles O42: with every item taken the buffer holds the command's own items alone, at most 8, and OUT_DEPTH is at
least 8. -/
theorem drainedBufferNeverHolds : Obligations.DrainedBufferNeverHolds := by
  intro s rest w later i hinbox hport hdrained hi
  obtain ⟨t, ht⟩ := exec_next i { s with inbox := rest, cmdPort := later }
  obtain ⟨items, hout, hcount, -⟩ := (exec_effect ht).appended_items
  obtain ⟨htaken, -⟩ := (exec_effect ht).samePorts
  have hbuffered : t.out.length - t.taken = items.length := by
    rw [htaken, hout, List.length_append, ← hdrained]
    exact Nat.add_sub_cancel_left ..
  have hfits : fits { s with inbox := rest } t = true := by
    refine (fits_iff _ _).mpr (.inr ?_)
    rw [hbuffered]
    exact hcount.trans (Nat.le_add_left 8 Config.outDepthExtra)
  refine ⟨t, ht, ?_⟩
  rw [← performWord_of_decode hi] at ht
  rw [step_of_turn (.inl hinbox), takeTurn_of_performWord (s := { s with inbox := rest }) hport ht, if_pos hfits]

end Sys2Proof.Machine
end

section
/-! SUPPORT. The actions of the host and the sink, forwards, and reset (70_reset_and_hazards R230 to R232, R249). -/

namespace Sys2Proof.Machine

/-- A step does the next action of the inbox (70_reset_and_hazards R249). -/
theorem step_of_inbox {s : State} {a : HostAction} {rest : List HostAction} (hinbox : s.inbox = a :: rest) :
    step s = act a { s with inbox := rest } := by
  rw [step, nextAction, hinbox]

/-- The sink takes the first of the items it has not taken (20_memory R58). -/
theorem takeItem_of_untaken {s : State} {item : OutItem} {later : List OutItem}
    (h : s.out.drop s.taken = item :: later) :
    takeItem s = { s with taken := s.taken + 1, sink := s.sink ++ [.took item] } := by
  have hnext : s.out[s.taken]? = some item := by rw [← List.head?_drop, h, List.head?_cons]
  rw [takeItem, hnext]

/-- With every item taken the sink takes none. -/
theorem takeItem_of_drained {s : State} (h : s.out.drop s.taken = []) : takeItem s = s := by
  have hnext : s.out[s.taken]? = none := by rw [← List.head?_drop, h, List.head?_nil]
  rw [takeItem, hnext]

/-- Settles O10: each step is the action at the head of the inbox; what a take does depends on the items not yet taken. -/
theorem hostAndSinkActionsTouchTheirPortOnly : Obligations.HostAndSinkActionsTouchTheirPortOnly := by
  refine fun s rest => ⟨fun w hinbox => step_of_inbox hinbox, fun a hinbox => step_of_inbox hinbox,
    fun item later hinbox hnext => ?_, fun hinbox hdrained => ?_⟩
  · rw [step_of_inbox hinbox, act, takeItem_of_untaken (s := { s with inbox := rest }) hnext]
  · rw [step_of_inbox hinbox, act, takeItem_of_drained (s := { s with inbox := rest }) hdrained]

/-- The entries of the default alphabet: the capital letters, then the digits from 2 (40_configuration R102). -/
theorem entry_default_eq_ite (i : SymVal) : entry Config.defaultAlphabet i
    = if i.toNat < 26 then BitVec.ofNat 8 (0x41 + i.toNat) else BitVec.ofNat 8 (0x32 + (i.toNat - 26)) := by
  revert i; decide

/-- Right after reset STATUS shows CFG_VALID alone (10_state R40, 70_reset_and_hazards R230). -/
theorem statusWord_reset : statusWord State.reset = 0x00000004#32 := by
  have hvalid : cfgValid State.reset.alpha = true := cfgValid_default
  rw [statusWord, hvalid]
  rfl

/-- Settles O11: the elements by definition, STATUS and ALPHA by the lemmas on the default alphabet; a reset leaves only
what the host and the sink hold. -/
theorem resetSetsEveryElement : Obligations.ResetSetsEveryElement :=
  ⟨⟨rfl, rfl⟩, ⟨rfl, rfl, rfl⟩, ⟨rfl, rfl, rfl, rfl, rfl, rfl⟩, ⟨rfl, rfl, rfl, rfl, rfl⟩, entry_default_eq_ite, rfl,
    ⟨statusWord_reset, rfl, rfl, rfl, rfl⟩, readReg_alpha State.reset,
    fun _ _ hinbox => ⟨_, step_of_inbox hinbox, rfl⟩⟩

/-- Settles O12: the step is the reset, which adds the number of open frames to what the sink has seen, and a result
'aborted' for each. -/
theorem resetDropsItemsAndWaitingWords : Obligations.ResetDropsItemsAndWaitingWords := by
  intro s rest hinbox
  exact ⟨assertReset { s with inbox := rest }, step_of_inbox hinbox, rfl, rfl, rfl, rfl, rfl, rfl,
    frameResults_append_sawReset (openFrames s) s.sink [], openFrames_pos_iff s⟩

/-- Settles O49: the invariants of the block hold at reset, and no item waits or is taken. -/
theorem resetMeetsTheInvariants : Obligations.ResetMeetsTheInvariants :=
  ⟨frameInv_blockInvariant.reset, configInv_blockInvariant.reset, captureInv_blockInvariant.reset,
    ⟨Nat.zero_le _, Nat.zero_le _, List.nil_suffix⟩, heldInv_blockInvariant.reset⟩

end Sys2Proof.Machine
end
